-- ==== Sys2Proof/Word.lean ====
section
/-! DEFINITION. The units of the stream: bytes and 16-bit fields (00_scope.md R9 BYTE_W, ADDR_W, OFF_W; R10). -/

namespace Sys2Proof

/-- A stream byte (R9 BYTE_W, R10). -/
abbrev Byte := BitVec 8

/-- A 16-bit field: `first`, `last`, the match offset (R9 ADDR_W and OFF_W). -/
abbrev Half := BitVec 16

/-- A nibble of the token: a literal-length or match-length code (R96). -/
abbrev Nibble := BitVec 4

end Sys2Proof
end

