-- ==== Sys2Proof/Config.lean ====
section
/-! DEFINITION. The parameters of 00_scope.md R9: the constants the source fixes, and the two open
parameters DEC_CAP and TERM_RULE, which 92_eei_decisions.md says a model takes as arguments. -/

namespace Sys2Proof

/-- TERM_RULE: the rule that ends an LZ4 block. R9 and decision D1 define exactly one value, so no other
can be written down (93_implementation_defined.md U1). -/
inductive TermRule where
  | eosAtOffset
  deriving DecidableEq, Repr

/-- The open parameters of R9. `decCap = none` is DEC_CAP = ∞. -/
structure Config where
  /-- DEC_CAP, the capacity of DBUF in bytes (R9, D7). -/
  decCap : Option Nat
  /-- TERM_RULE (R9, D1). -/
  termRule : TermRule
  deriving DecidableEq, Repr

/-- The defaults of R9: DEC_CAP = ∞, TERM_RULE = EOS_AT_OFFSET. -/
def Config.default : Config := ⟨none, .eosAtOffset⟩

/-- MAGIC: the file-header byte and the dummy-header byte (R9). -/
abbrev Config.magic : Byte := 0xFF

/-- EXT_ESC: the length code that is followed by extension bytes (R9). -/
abbrev Config.extEsc : Nibble := 15

/-- EXT_CONT: the extension byte that continues an extension (R9). -/
abbrev Config.extCont : Byte := 0xFF

/-- MINMATCH: the constant added to the match-length code (R9). -/
abbrev Config.minMatch : Nat := 4

end Sys2Proof
end

