-- ==== Sys2Proof/Machine/Phase.lean ====
section
/-! DEFINITION. The enumerations the rest is written with: PHASE (10_state.md R21), STATUS (R30), the error
kinds (60_exceptions.md R251), the item of the input port (00_scope.md R13) and the trace record
(60_exceptions.md R270). -/

namespace Sys2Proof.Machine

/-- PHASE, the 19 values of R21. R21 does not fix its bits, so it is an enumeration (U16). -/
inductive Phase where
  | pMagic0 | pMagic1 | pFirst0 | pFirst1 | pLast0 | pLast1 | pCopy | pCtype
  | lToken | lLitext | lLit | lOff0 | lOff1 | lMext | lMatch
  | eHdr | eData
  | done | fault
  deriving DecidableEq, Repr

/-- STATUS (R30); its bits are not fixed (U16). -/
inductive Status where
  | run | done | fault
  deriving DecidableEq, Repr

/-- The error kinds 1 to 6 of R251. -/
inductive ErrKind where
  | badMagic | truncatedHeader | truncatedSegment | truncatedBlock | corruptBlock | capacityFault
  deriving DecidableEq, Repr

/-- `code(E)`: the value of ERR for each kind (R251). -/
def ErrKind.code : ErrKind → BitVec 3
  | .badMagic => 1
  | .truncatedHeader => 2
  | .truncatedSegment => 3
  | .truncatedBlock => 4
  | .corruptBlock => 5
  | .capacityFault => 6

/-- What `In()` returns: a byte, or EOS (R13, R17). -/
inductive Item where
  | byte (b : Byte)
  | eos
  deriving DecidableEq, Repr

/-- The bytes of an item: EOS has none. -/
def Item.toBytes : Item → List Byte
  | .byte b => [b]
  | .eos => []

/-- A record of TRACE (R270, decision D19). -/
inductive TraceRecord where
  | normal (first last : Half)
  | compressed (first last : Half) (ctype : Byte) (size : Nat)
  deriving DecidableEq, Repr

/-- The `L_` phases: the LZ4 Block Decoder owns the cursor (R21). -/
def Phase.isDecoder : Phase → Bool
  | .lToken | .lLitext | .lLit | .lOff0 | .lOff1 | .lMext | .lMatch => true
  | .pMagic0 | .pMagic1 | .pFirst0 | .pFirst1 | .pLast0 | .pLast1 | .pCopy | .pCtype
  | .eHdr | .eData | .done | .fault => false

/-- The `E_` phases: the segment emitter (R21). -/
def Phase.isEmitter : Phase → Bool
  | .eHdr | .eData => true
  | .pMagic0 | .pMagic1 | .pFirst0 | .pFirst1 | .pLast0 | .pLast1 | .pCopy | .pCtype
  | .lToken | .lLitext | .lLit | .lOff0 | .lOff1 | .lMext | .lMatch | .done | .fault => false

end Sys2Proof.Machine
end

