-- ==== Sys2Proof/Machine/State.lean ====
section
/-! DEFINITION. The state of the CORE, plain data: everything 10_state.md R20 lists, the environment's two
streams among them, and the machine right after reset (R38, 70_reset_and_hazards.md R290). -/

namespace Sys2Proof.Machine

/-- A byte memory as (address, byte) pairs. An address that is not listed holds no value (R65), so every
listed pair counts; the canonical form is `Memory.wf`. -/
structure Memory where
  cells : List Host.Cell
  deriving DecidableEq, Repr

/-- The complete state (R20). The register names are those of R25. -/
structure State where
  /-- The parameters DEC_CAP and TERM_RULE (R9); no step writes them (R298). -/
  cfg : Config
  /-- PHASE (R21). -/
  phase : Phase
  /-- ERR, 3 bits (R31). -/
  err : BitVec 3
  /-- M0: first byte of the file header. -/
  m0 : Byte
  /-- FLO: `firstLo` of the current header. -/
  flo : Byte
  /-- FHI: `firstHi` of the current header. -/
  fhi : Byte
  /-- LLO: `lastLo` of the current header. -/
  llo : Byte
  /-- LHI: `lastHi` of the current header. -/
  lhi : Byte
  /-- REM: payload bytes still to copy, 17 bits. -/
  rem : BitVec 17
  /-- CTYPE: the compression-type byte. -/
  ctype : Byte
  /-- TOKEN: token of the current LZ4 sequence. -/
  token : Byte
  /-- LITLEN: literal bytes still to copy, or the length accumulated so far. -/
  litlen : Nat
  /-- OLO: low byte of the match offset. -/
  olo : Byte
  /-- OFFS: the match offset. -/
  offs : Half
  /-- MLEN: match bytes still to copy, or the length accumulated so far. -/
  mlen : Nat
  /-- EIDX: index in DBUF of the next byte to emit. -/
  eidx : Nat
  /-- DBUF, the decoded buffer (R34). -/
  dbuf : Memory
  /-- IN, the whole input stream, fixed before the run (R60). -/
  inp : List Byte
  /-- The ghost cursor `ipos` (R23). -/
  ipos : Nat
  /-- OUT, the bytes written so far (R63). -/
  out : List Byte
  /-- The ghost list TRACE (R37). -/
  trace : List TraceRecord
  deriving DecidableEq, Repr

/-- Why a step stops where the spec has no step. None is an error of the hardware: those are taken by
`State.raise`. -/
inductive Fault where
  /-- Raised by `fetch` in DONE and FAULT, which have no outgoing transition (R22, R258). Safe. -/
  | stopped
  /-- Raised by PAYLOAD, LIT and MATCH when REM, LITLEN or MLEN is 0: no row of R220 applies (R221,
  R240). No run reaches it. Safe. -/
  | counterZero
  /-- Raised by MATCH and EMITD when the byte of DBUF they read does not exist, which R65 asks of a model.
  No run reaches it. Safe. -/
  | dbufRead
  /-- Raised by `fetch` if an element were unfinished in a phase whose element is one byte long. No state
  reaches it (`fetch_never_unlatched`). Safe. -/
  | noLatch
  deriving DecidableEq, Repr

/-- Why an instruction has no meaning. -/
inductive Refusal where
  /-- Raised by an arm of `exec` whose instruction has no meaning yet; there is none left. Safe. -/
  | notModelled (mnemonic : String)
  deriving DecidableEq, Repr

/-- The machine right after reset (R38, R290), with the default parameters of R9 and no input placed yet.
DESIGN CHOICE (log 1): the 13 data registers, which the spec leaves unspecified, hold 0.
DESIGN CHOICE (log 2): IN, which the environment supplies (R295), is empty. -/
def State.reset : State where
  cfg := Config.default
  phase := .pMagic0
  err := 0
  m0 := 0
  flo := 0
  fhi := 0
  llo := 0
  lhi := 0
  rem := 0
  ctype := 0
  token := 0
  litlen := 0
  olo := 0
  offs := 0
  mlen := 0
  eidx := 0
  dbuf := ⟨[]⟩
  inp := []
  ipos := 0
  out := []
  trace := []

end Sys2Proof.Machine
end

