-- ==== Sys2Proof/Machine/Operands.lean ====
section
/-! DEFINITION. How operands are assembled from stream bytes and read back from registers: 20_memory.md R68,
30_encoding.md R101, 43_control_and_arithmetic.md R240, and the views of 10_state.md R26. -/

namespace Sys2Proof.Machine

/-- `u16(lo, hi) = lo + 256 * hi`, low byte first (R10, R68). -/
def u16 (lo hi : Byte) : Half := BitVec.ofNat 16 (lo.toNat + 256 * hi.toNat)

/-- `lo8(v) = v mod 256` (R10). -/
def lo8 (v : Half) : Byte := BitVec.ofNat 8 (v.toNat % 256)

/-- `hi8(v) = floor(v / 256)` (R10). -/
def hi8 (v : Half) : Byte := BitVec.ofNat 8 (v.toNat / 256)

/-- Bits 7..4 of a token: LCODE (R96). -/
def highNibble (b : Byte) : Nibble := b.extractLsb' 4 4

/-- Bits 3..0 of a token: MCODE (R96). -/
def lowNibble (b : Byte) : Nibble := b.extractLsb' 0 4

/-- The token byte of two codes: `16 * l + m` (R105). -/
def tokenByte (lcode mcode : Nibble) : Byte := BitVec.ofNat 8 (16 * lcode.toNat + mcode.toNat)

/-- `last - first + 1` in 17 bits, computed where `last >= first` (R101, R240, decision D16). -/
def payloadLength (first last : Half) : BitVec 17 :=
  BitVec.ofNat 17 (last.toNat - first.toNat + 1)

/-- The recomputed `last`, `(first + N - 1) mod 65536`: the sum is taken in the integers and then reduced
(R201, R240, decision D22). -/
def recomputedLast (first : Half) (n : Nat) : Half :=
  BitVec.ofInt 16 ((first.toNat : Int) + (n : Int) - 1)

/-- The match length a token starts with: `4 + MCODE` (R168). -/
def startMatchLength (mcode : Nibble) : Nat := Config.minMatch + mcode.toNat

/-- The view FIRST (R26). -/
def State.first (s : State) : Half := u16 s.flo s.fhi

/-- The view LAST (R26). -/
def State.last (s : State) : Half := u16 s.llo s.lhi

/-- The view LCODE (R26). -/
def State.lcode (s : State) : Nibble := highNibble s.token

/-- The view MCODE (R26). -/
def State.mcode (s : State) : Nibble := lowNibble s.token

end Sys2Proof.Machine
end

