-- ==== Sys2Proof/Machine/Ops.lean ====
section
/-! DEFINITION. The primitives of 00_scope.md R13 over the state: the input port, the output port, DBUF, the
control transfer, the trace, and `raise`, the one exception entry (60_exceptions.md R256). There is no
return from an exception (R258); what ends a fault stop is reset (70_reset_and_hazards.md R290). -/

namespace Sys2Proof.Machine

/-! ### DBUF -/

/-- N = len(DBUF) (R26). -/
def Memory.size (m : Memory) : Nat := m.cells.length

/-- The empty buffer. -/
def Memory.empty : Memory := ⟨[]⟩

/-- `MemRead(a, 1)` (R65): no value at an address that has not been written. -/
def Memory.read (m : Memory) (a : Nat) : Option Byte := m.cells.lookup a

/-- `MemWrite(N, 1, v)` (R66): the only write is at address N, which N then passes. -/
def Memory.append (m : Memory) (v : Byte) : Memory := ⟨m.cells ++ [(m.size, v)]⟩

/-- The buffer as a sequence (R12). -/
def Memory.bytes (m : Memory) : List Byte := m.cells.map Prod.snd

/-- The canonical form: the addresses are 0, 1, ... N - 1 in rising order. No listed pair can equal what an
unlisted address reads as, since that is no value. -/
abbrev Memory.wf (m : Memory) : Prop := m.cells.map Prod.fst = List.range m.size

/-! ### The views of the state -/

/-- The view N (R26). -/
def State.n (s : State) : Nat := s.dbuf.size

/-- The ghost `opos` (R23): the number of bytes written. -/
def State.opos (s : State) : Nat := s.out.length

/-- Whether the input port has nothing more to give: sticky, since IN is fixed and `ipos` never decreases
(R36, R61). -/
def State.atEos (s : State) : Bool := decide (s.inp.length ≤ s.ipos)

/-- DBUF holds DEC_CAP bytes (R66). N never exceeds a finite DEC_CAP (log 7). -/
def State.full (s : State) : Bool :=
  match s.cfg.decCap with
  | none => false
  | some c => decide (c ≤ s.n)

/-! ### The ports -/

/-- The item `In()` returns (R61). -/
def State.item (s : State) : Item :=
  match s.inp[s.ipos]? with
  | some b => .byte b
  | none => .eos

/-- The state after `In()`: a byte has been consumed, EOS consumes nothing (R61). -/
def State.taken (s : State) : State :=
  { s with ipos := if s.ipos < s.inp.length then s.ipos + 1 else s.ipos }

/-- `OutWrite(b)` (R63). -/
def State.outWrite (s : State) (b : Byte) : State := { s with out := s.out ++ [b] }

/-- The four `OutWrite` of a segment header, in the order written (R134, R201). -/
def State.outHeader (s : State) (firstLo firstHi lastLo lastHi : Byte) : State :=
  (((s.outWrite firstLo).outWrite firstHi).outWrite lastLo).outWrite lastHi

/-- `DbufAppend(v)` (R66). -/
def State.dbufAppend (s : State) (v : Byte) : State := { s with dbuf := s.dbuf.append v }

/-- The byte `DBUF[N - OFFS]`, for `OFFS <= N` (R171, R79). -/
def State.backReference (s : State) : Option Byte :=
  if s.offs.toNat ≤ s.n then s.dbuf.read (s.n - s.offs.toNat) else none

/-! ### Control, trace and the exception entry -/

/-- `PHASE <- P` (R13). -/
def State.goto (s : State) (p : Phase) : State := { s with phase := p }

/-- `Trace(r)` (R270). -/
def State.record (s : State) (r : TraceRecord) : State := { s with trace := s.trace ++ [r] }

/-- `raise E`, the fault stop (R256): ERR and PHASE, nothing else. -/
def State.raise (s : State) (e : ErrKind) : State := { s with err := e.code, phase := .fault }

/-! ### The start of a run -/

/-- The host asserts reset and presents fresh streams (R290, R291, R295). The parameters belong to the chip
and stay (R298). -/
def State.assertReset (s : State) (fresh : List Byte) : State :=
  { State.reset with cfg := s.cfg, inp := fresh }

/-- The start of a run on the input `fresh` of a CORE with the parameters `cfg`. -/
def State.load (cfg : Config) (fresh : List Byte) : State :=
  State.assertReset { State.reset with cfg := cfg } fresh

end Sys2Proof.Machine
end

