-- ==== Sys2Proof/Machine/Flags.lean ====
section
/-! DEFINITION. The CORE has no flags (10_state.md R29): its comparisons are made in the step that uses them and
are not stored. They stand here, with the STATUS view (R30) and what the host reads (R32). -/

namespace Sys2Proof.Machine

/-- STATUS, a function of PHASE (R30). -/
def State.status (s : State) : Status :=
  match s.phase with
  | .done => .done
  | .fault => .fault
  | .pMagic0 | .pMagic1 | .pFirst0 | .pFirst1 | .pLast0 | .pLast1 | .pCopy | .pCtype
  | .lToken | .lLitext | .lLit | .lOff0 | .lOff1 | .lMext | .lMatch | .eHdr | .eData => .run

/-- What the host can read: STATUS, ERR and CTYPE (R32). -/
def State.hostView (s : State) : Status × BitVec 3 × Byte := (s.status, s.err, s.ctype)

/-- `last >= first`, unsigned on 16 bits: the segment is a normal one (R93, R240). -/
def isNormal (first last : Half) : Bool := decide (first.toNat ≤ last.toNat)

/-- Both bytes are 0xFF: a dummy header, or the file header (R91, R92). -/
def isMagicPair (b0 b1 : Byte) : Bool := decide (b0 = Config.magic ∧ b1 = Config.magic)

/-- `1 <= D <= N`: the match offset is legal (R99, R168). -/
def offsetLegal (d : Half) (n : Nat) : Bool := decide (1 ≤ d.toNat ∧ d.toNat ≤ n)

end Sys2Proof.Machine
end

