-- ==== Sys2Proof/Machine/Decoder.lean ====
section
/-! DEFINITION. The meanings of the LZ4 Block Decoder's instructions (41_lz4_decoder.md). -/

namespace Sys2Proof.Machine

/-- TOKEN (R162, rows 22 to 24). -/
def execToken (lcode mcode : Nibble) (s : State) : Host.Outcome State Fault Refusal :=
  let t := { s.taken with token := tokenByte lcode mcode, litlen := lcode.toNat }
  .next (t.goto (if lcode = Config.extEsc then .lLitext else if lcode = 0 then .lOff0 else .lLit))

/-- One literal-length extension byte: `LITLEN <- LITLEN + x`, then phase `p` (R163). -/
def State.extendLiteral (s : State) (x : Byte) (p : Phase) : State :=
  { s.taken with litlen := s.litlen + x.toNat }.goto p

/-- LEXT.C (R163, row 26). -/
def execLextC (s : State) : Host.Outcome State Fault Refusal :=
  .next (s.extendLiteral Config.extCont .lLitext)

/-- LEXT.E (R163, row 27). -/
def execLextE (e : Byte) (s : State) : Host.Outcome State Fault Refusal :=
  .next (s.extendLiteral e .lLit)

/-- LIT (R164, rows 28, 30, 31). A full buffer raises before the byte is taken. R221: LITLEN is at least 1
here. -/
def execLit (v : Byte) (s : State) : Host.Outcome State Fault Refusal :=
  if s.full then .next (s.raise .capacityFault)
  else if s.litlen = 0 then .fault .counterZero
  else
    .next ({ s.taken.dbufAppend v with litlen := s.litlen - 1 }.goto
      (if s.litlen = 1 then .lOff0 else .lLit))

/-- BLKEND (R167, row 32): what ends a block is TERM_RULE (decision D1, log 9). -/
def execBlkend (s : State) : Host.Outcome State Fault Refusal :=
  match s.cfg.termRule with
  | .eosAtOffset => .next (s.goto .eHdr)

/-- MOFF (R168, rows 35 to 37): the offset is checked before any extension byte is taken. -/
def execMoff (d : Half) (s : State) : Host.Outcome State Fault Refusal :=
  if offsetLegal d s.n then
    .next ({ s.taken with offs := d, mlen := startMatchLength s.mcode }.goto
      (if s.mcode = Config.extEsc then .lMext else .lMatch))
  else .next (s.taken.raise .corruptBlock)

/-- One match-length extension byte: `MLEN <- MLEN + x`, then phase `p` (R169). -/
def State.extendMatch (s : State) (x : Byte) (p : Phase) : State :=
  { s.taken with mlen := s.mlen + x.toNat }.goto p

/-- MEXT.C (R169, row 39). -/
def execMextC (s : State) : Host.Outcome State Fault Refusal :=
  .next (s.extendMatch Config.extCont .lMext)

/-- MEXT.E (R169, row 40). -/
def execMextE (e : Byte) (s : State) : Host.Outcome State Fault Refusal :=
  .next (s.extendMatch e .lMatch)

/-- MATCH (R171, rows 41 to 43): one byte, read `OFFS` behind the write position as DBUF is now. R221: MLEN is
at least 1 here. -/
def execMatchCopy (s : State) : Host.Outcome State Fault Refusal :=
  if s.full then .next (s.raise .capacityFault)
  else if s.mlen = 0 then .fault .counterZero
  else
    match s.backReference with
    | none => .fault .dbufRead
    | some b =>
      .next ({ s.dbufAppend b with mlen := s.mlen - 1 }.goto
        (if s.mlen = 1 then .lToken else .lMatch))

end Sys2Proof.Machine
end

