-- ==== Sys2Proof/Machine/Emitter.lean ====
section
/-! DEFINITION. The meanings of the segment emitter's instructions (42_emit.md). -/

namespace Sys2Proof.Machine

/-- The trace record of a re-framed segment, with the recomputed `last` (R201, R203, R270). -/
def State.compressedRecord (s : State) : TraceRecord :=
  .compressed s.first (recomputedLast s.first s.n) s.ctype s.n

/-- EMITH (R201, rows 44 and 45). -/
def execEmith (s : State) : Host.Outcome State Fault Refusal :=
  let v := recomputedLast s.first s.n
  let t := s.outHeader s.flo s.fhi (lo8 v) (hi8 v)
  if s.n = 0 then .next ((t.record s.compressedRecord).goto .pFirst0)
  else .next ({ t with eidx := 0 }.goto .eData)

/-- EMITD (R203, rows 46 and 47). -/
def execEmitd (s : State) : Host.Outcome State Fault Refusal :=
  match s.dbuf.read s.eidx with
  | none => .fault .dbufRead
  | some b =>
    let t := { s.outWrite b with eidx := s.eidx + 1 }
    if s.eidx + 1 = s.n then .next ((t.record s.compressedRecord).goto .pFirst0)
    else .next (t.goto .eData)

end Sys2Proof.Machine
end

