-- ==== Sys2Proof/Machine/Parser.lean ====
section
/-! DEFINITION. The meanings of the Segment Stream Parser's instructions (40_parser.md). Each is the step that
takes the element's last byte, or that needs none; the bytes before it are in their registers (Fetch.lean). -/

namespace Sys2Proof.Machine

/-- FHDR (R130, row 5): the two magic bytes are copied to OUT. -/
def execFhdr (s : State) : Host.Outcome State Fault Refusal :=
  .next (((s.taken.outWrite Config.magic).outWrite Config.magic).goto .pFirst0)

/-- EOF (R131, row 6): the clean stop. -/
def execEof (s : State) : Host.Outcome State Fault Refusal :=
  .next (s.goto .done)

/-- DUMMY (R132, row 9): dropped. -/
def execDummy (s : State) : Host.Outcome State Fault Refusal :=
  .next ({ s.taken with fhi := Config.magic }.goto .pFirst0)

/-- SEGN (R134, row 14): the header goes to OUT unchanged, REM counts the payload. -/
def execSegn (first last : Half) (s : State) : Host.Outcome State Fault Refusal :=
  let t := s.taken.outHeader (lo8 first) (hi8 first) (lo8 last) (hi8 last)
  .next ({ t with lhi := hi8 last, rem := payloadLength first last }.goto .pCopy)

/-- PAYLOAD (R135, rows 17 and 18). R221: REM is at least 1 here. -/
def execPayload (p : Byte) (s : State) : Host.Outcome State Fault Refusal :=
  if s.rem = 0 then .fault .counterZero
  else
    let t := { s.taken.outWrite p with rem := s.rem - 1 }
    if s.rem = 1 then .next ((t.record (.normal s.first s.last)).goto .pFirst0)
    else .next (t.goto .pCopy)

/-- SEGC (R136, row 20): the compression-type byte is kept and not interpreted, DBUF starts empty. `first`
stands in FLO and FHI, where the fetch put it; `last` is not used again (R95). -/
def execSegc (ctype : Byte) (s : State) : Host.Outcome State Fault Refusal :=
  .next ({ s.taken with ctype := ctype, dbuf := Memory.empty }.goto .lToken)

end Sys2Proof.Machine
end

