-- ==== Sys2Proof/Syntax.lean ====
section
/-! DEFINITION. The instructions: one constructor per row of spec/opcode_table.json (00_scope.md R4). -/

namespace Sys2Proof

/-- The elements of the input stream and the internal operations. The operands are the fields of the
element's format (30_encoding.md), 16-bit ones already assembled (R101). -/
inductive Instr where
  /-- FHDR, the file header (R130). -/
  | fhdr
  /-- EOF, end of the stream where `firstLo` is expected (R131). -/
  | eof
  /-- DUMMY, a dummy header (R132). -/
  | dummy
  /-- SEGN, the header of a normal segment (R134). -/
  | segn (first last : Half)
  /-- PAYLOAD, one raw payload byte (R135). -/
  | payload (p : Byte)
  /-- SEGC, the header of a compressed segment and its compression-type byte (R136). -/
  | segc (first last : Half) (ctype : Byte)
  /-- TOKEN, the token of an LZ4 sequence (R162). -/
  | token (lcode mcode : Nibble)
  /-- LEXT.C, a literal-length extension byte that continues (R163). -/
  | lextC
  /-- LEXT.E, a literal-length extension byte that ends the extension (R163). -/
  | lextE (e : Byte)
  /-- LIT, one literal byte (R164). -/
  | lit (v : Byte)
  /-- BLKEND, end of the stream where the match offset is expected (R167). -/
  | blkend
  /-- MOFF, the match offset (R168). -/
  | moff (d : Half)
  /-- MEXT.C, a match-length extension byte that continues (R169). -/
  | mextC
  /-- MEXT.E, a match-length extension byte that ends the extension (R169). -/
  | mextE (e : Byte)
  /-- MATCH, the copy of one byte of a match (R171). -/
  | matchCopy
  /-- EMITH, the header of a decoded segment (R201). -/
  | emith
  /-- EMITD, one byte of a decoded segment (R203). -/
  | emitd
  deriving DecidableEq, Repr

end Sys2Proof
end

