-- ==== Sys2Proof/Machine/Dispatch.lean ====
section
/-! DEFINITION. One arm per instruction, each one call of that instruction's meaning. -/

namespace Sys2Proof.Machine

def exec (i : Instr) (s : State) : Host.Outcome State Fault Refusal :=
  match i with
  | .fhdr => Sys2Proof.Machine.execFhdr s
  | .eof => Sys2Proof.Machine.execEof s
  | .dummy => Sys2Proof.Machine.execDummy s
  | .segn first last => Sys2Proof.Machine.execSegn first last s
  | .payload p => Sys2Proof.Machine.execPayload p s
  | .segc _ _ ctype => Sys2Proof.Machine.execSegc ctype s
  | .token lcode mcode => Sys2Proof.Machine.execToken lcode mcode s
  | .lextC => Sys2Proof.Machine.execLextC s
  | .lextE e => Sys2Proof.Machine.execLextE e s
  | .lit v => Sys2Proof.Machine.execLit v s
  | .blkend => Sys2Proof.Machine.execBlkend s
  | .moff d => Sys2Proof.Machine.execMoff d s
  | .mextC => Sys2Proof.Machine.execMextC s
  | .mextE e => Sys2Proof.Machine.execMextE e s
  | .matchCopy => Sys2Proof.Machine.execMatchCopy s
  | .emith => Sys2Proof.Machine.execEmith s
  | .emitd => Sys2Proof.Machine.execEmitd s

end Sys2Proof.Machine
end

