-- ==== Sys2Proof/WellFormed.lean ====
section
/-! DEFINITION. Which instructions have an encoding: the `constraint` entries of spec/opcode_table.json that speak
of operands (30_encoding.md R92, R93, R97). What depends on the state, `1 <= D <= N` of a match offset, is
checked by MOFF (R168). -/

namespace Sys2Proof

/-- The operand constraints of R93 (a header is not `FF FF`, and `last` selects the kind) and R97 (the byte
that ends an extension is not 255). -/
def Instr.wellFormed : Instr → Bool
  | .segn first last => decide (first ≠ 0xFFFF) && Machine.isNormal first last
  | .segc first last _ => decide (first ≠ 0xFFFF) && !Machine.isNormal first last
  | .lextE e => decide (e ≠ Config.extCont)
  | .mextE e => decide (e ≠ Config.extCont)
  | .fhdr | .eof | .dummy | .payload _ | .token _ _ | .lextC | .lit _ | .blkend | .moff _ | .mextC
  | .matchCopy | .emith | .emitd => true

end Sys2Proof
end

