-- ==== Sys2Proof/Decode.lean ====
section
/-! DEFINITION. The decoder and the encoder of the input stream (30_encoding.md). Decoding depends on PHASE: a
byte value selects different operations in different phases. The decoder is given the bytes of an element
counted from the element's first byte, and PHASE says how far the element has already been recognised. -/

namespace Sys2Proof

open Machine

/-- What the decoder answers. -/
inductive Decoded where
  /-- A whole element and the bytes after it. -/
  | ok (i : Instr) (rest : List Byte)
  /-- The bytes end inside the element; `e` is the error if the stream ends there too (R252). -/
  | truncated (e : ErrKind)
  /-- An illegal encoding (R91, R103). -/
  | illegal (e : ErrKind)
  /-- In DONE and FAULT nothing is decoded (R22). -/
  | noElement
  deriving DecidableEq, Repr

/-- Format FH (R91): both bytes 0xFF; anything else, or fewer than 2 bytes, is BadMagic (R130). -/
def decodeFileHeader : List Byte → Decoded
  | b0 :: b1 :: rest => if isMagicPair b0 b1 then .ok .fhdr rest else .illegal .badMagic
  | _ => .truncated .badMagic

/-- Formats SH and CT (R93, R95) of a header known to be that of a compressed segment (R136). -/
def decodeCompressed : List Byte → Decoded
  | flo :: fhi :: llo :: lhi :: t :: rest => .ok (.segc (u16 flo fhi) (u16 llo lhi) t) rest
  | _ => .truncated .truncatedHeader

/-- Format SH (R93) of a header known not to be a dummy: the comparison selects SEGN or SEGC (R133). -/
def decodeReal : List Byte → Decoded
  | flo :: fhi :: llo :: lhi :: rest =>
    if isNormal (u16 flo fhi) (u16 llo lhi) then .ok (.segn (u16 flo fhi) (u16 llo lhi)) rest
    else decodeCompressed (flo :: fhi :: llo :: lhi :: rest)
  | _ => .truncated .truncatedHeader

/-- A header position (R92, R93): EOF if the stream ends here (R131), a dummy header, or a real header. -/
def decodeHeader : List Byte → Decoded
  | [] => .ok .eof []
  | flo :: fhi :: rest =>
    if isMagicPair flo fhi then .ok .dummy rest else decodeReal (flo :: fhi :: rest)
  | _ => .truncated .truncatedHeader

/-- Format NP (R94). -/
def decodePayload : List Byte → Decoded
  | p :: rest => .ok (.payload p) rest
  | [] => .truncated .truncatedSegment

/-- Format TK (R96). -/
def decodeToken : List Byte → Decoded
  | t :: rest => .ok (.token (highNibble t) (lowNibble t)) rest
  | [] => .truncated .truncatedBlock

/-- Format LX after a token (R97). -/
def decodeLitExt : List Byte → Decoded
  | e :: rest => .ok (if e = Config.extCont then .lextC else .lextE e) rest
  | [] => .truncated .truncatedBlock

/-- Format LB (R98). -/
def decodeLit : List Byte → Decoded
  | v :: rest => .ok (.lit v) rest
  | [] => .truncated .truncatedBlock

/-- Format MO (R99) where it starts: BLKEND if the stream ends here (R100, R166, decision D1). -/
def decodeOffset : List Byte → Decoded
  | [] => .ok .blkend []
  | lo :: hi :: rest => .ok (.moff (u16 lo hi)) rest
  | _ => .truncated .truncatedBlock

/-- Format LX after a match offset (R97). -/
def decodeMatchExt : List Byte → Decoded
  | e :: rest => .ok (if e = Config.extCont then .mextC else .mextE e) rest
  | [] => .truncated .truncatedBlock

/-- The decoder, by PHASE (R21 and the `context` entries of spec/opcode_table.json). -/
def decode (p : Phase) (bytes : List Byte) : Decoded :=
  match p with
  | .pMagic0 | .pMagic1 => decodeFileHeader bytes
  | .pFirst0 | .pFirst1 => decodeHeader bytes
  | .pLast0 | .pLast1 => decodeReal bytes
  | .pCopy => decodePayload bytes
  | .pCtype => decodeCompressed bytes
  | .lToken => decodeToken bytes
  | .lLitext => decodeLitExt bytes
  | .lLit => decodeLit bytes
  | .lOff0 | .lOff1 => decodeOffset bytes
  | .lMext => decodeMatchExt bytes
  | .lMatch => .ok .matchCopy bytes
  | .eHdr => .ok .emith bytes
  | .eData => .ok .emitd bytes
  | .done | .fault => .noElement

/-! ### The encoder -/

/-- The bytes of an element in stream order (R91 to R99); the five operations without a byte have none. -/
def encode : Instr → List Byte
  | .fhdr => [Config.magic, Config.magic]
  | .eof => []
  | .dummy => [Config.magic, Config.magic]
  | .segn first last => [lo8 first, hi8 first, lo8 last, hi8 last]
  | .payload p => [p]
  | .segc first last ctype => [lo8 first, hi8 first, lo8 last, hi8 last, ctype]
  | .token lcode mcode => [tokenByte lcode mcode]
  | .lextC => [Config.extCont]
  | .lextE e => [e]
  | .lit v => [v]
  | .blkend => []
  | .moff d => [lo8 d, hi8 d]
  | .mextC => [Config.extCont]
  | .mextE e => [e]
  | .matchCopy => []
  | .emith => []
  | .emitd => []

/-- The phase in which an element's first byte is recognised: the first entry of its `context` in
spec/opcode_table.json. -/
def Instr.startPhase : Instr → Phase
  | .fhdr => .pMagic0
  | .eof => .pFirst0
  | .dummy => .pFirst0
  | .segn _ _ => .pFirst0
  | .payload _ => .pCopy
  | .segc _ _ _ => .pFirst0
  | .token _ _ => .lToken
  | .lextC => .lLitext
  | .lextE _ => .lLitext
  | .lit _ => .lLit
  | .blkend => .lOff0
  | .moff _ => .lOff0
  | .mextC => .lMext
  | .mextE _ => .lMext
  | .matchCopy => .lMatch
  | .emith => .eHdr
  | .emitd => .eData

/-- EOF and BLKEND are selected by the end of the stream (R131, R167): no byte may follow them. -/
def Instr.isEndOfStream : Instr → Bool
  | .eof | .blkend => true
  | .fhdr | .dummy | .segn _ _ | .payload _ | .segc _ _ _ | .token _ _ | .lextC | .lextE _ | .lit _
  | .moff _ | .mextC | .mextE _ | .matchCopy | .emith | .emitd => false

/-- `length_bytes` of spec/opcode_table.json; the number of bytes the element takes from IN (R24). -/
def Instr.lengthBytes : Instr → Nat
  | .fhdr => 2
  | .eof => 0
  | .dummy => 2
  | .segn _ _ => 4
  | .payload _ => 1
  | .segc _ _ _ => 5
  | .token _ _ => 1
  | .lextC => 1
  | .lextE _ => 1
  | .lit _ => 1
  | .blkend => 0
  | .moff _ => 2
  | .mextC => 1
  | .mextE _ => 1
  | .matchCopy => 0
  | .emith => 0
  | .emitd => 0

/-! ### The stream notation of R105 -/

/-- A stream written as a list of elements. -/
def assemble (elements : List Instr) : List Byte := elements.flatMap encode

/-- A whole normal segment: its header and its payload (R94, R105). -/
def normalSegment (first last : Half) (payload : List Byte) : List Instr :=
  .segn first last :: payload.map .payload

/-- The length code of a length `v`: `min(v, 15)` (R105, R165). -/
def lengthCode (v : Nat) : Nibble := BitVec.ofNat 4 (min v 15)

/-- The extension bytes of a length `v`: none below 15, else `floor((v - 15) / 255)` times 255 and one byte
`(v - 15) mod 255` (R105, R165). -/
def extensionBytes (v : Nat) : List Byte :=
  if v < 15 then []
  else List.replicate ((v - 15) / 255) Config.extCont ++ [BitVec.ofNat 8 ((v - 15) % 255)]

/-- An extension byte as the LEXT it is. -/
def lextOf (e : Byte) : Instr := if e = Config.extCont then .lextC else .lextE e

/-- An extension byte as the MEXT it is. -/
def mextOf (e : Byte) : Instr := if e = Config.extCont then .mextC else .mextE e

/-- The pseudo-element `SEQ lit=[...], off=d, mlen=m` (R105), for `m >= 4`. -/
def sequenceElements (lits : List Byte) (off : Half) (mlen : Nat) : List Instr :=
  .token (lengthCode lits.length) (lengthCode (mlen - Config.minMatch)) ::
    ((extensionBytes lits.length).map lextOf ++ lits.map .lit ++ [.moff off] ++
      (extensionBytes (mlen - Config.minMatch)).map mextOf)

/-- The pseudo-element `FINAL lit=[...]` (R105). -/
def finalElements (lits : List Byte) : List Instr :=
  .token (lengthCode lits.length) 0 :: ((extensionBytes lits.length).map lextOf ++ lits.map .lit)

/-! ### The rows of the opcode table as numbered bits -/

/-- The bytes of a table word: bit 0 is the least significant bit of the first byte. -/
def tableBytes (nbits w : Nat) : List Byte :=
  (List.range (nbits / 8)).map fun k => BitVec.ofNat 8 (w / 2 ^ (8 * k))

/-- The phase a table word is decoded in. DESIGN CHOICE (log 5): the bits of a row do not determine its
operation (`FF FF` is FHDR, DUMMY and a match offset), so each length has one fixed reading. -/
def tablePhase (nbits w : Nat) : Option Phase :=
  if nbits = 0 then some .pFirst0
  else if nbits = 8 then some (if w % 256 = 255 then .lLitext else .lToken)
  else if nbits = 16 then some (if w % 65536 = 65535 then .pMagic0 else .lOff0)
  else if nbits = 32 then some .pFirst0
  else if nbits = 40 then some .pFirst0
  else none

/-- The instruction the decoder reads from the bits `w` of a table row of `nbits` bits. -/
def decodeTableWord (nbits w : Nat) : Option Instr :=
  match tablePhase nbits w with
  | none => none
  | some p =>
    match decode p (tableBytes nbits w) with
    | .ok i [] => some i
    | .ok _ (_ :: _) => none
    | .truncated _ => none
    | .illegal _ => none
    | .noElement => none

end Sys2Proof
end

