-- ==== Sys2Proof/Machine/Fetch.lean ====
section
/-! DEFINITION. Fetching an element. The CORE takes one item a step (00_scope.md R14), so an element of several
bytes is taken over several steps. A step that takes a byte before the element's last one keeps it in that
byte's register and goes to the next phase (rows 2, 7, 10, 12, 15, 33 of R220); the step that takes the last
byte, or that needs none, runs the instruction; a stream that ends inside an element raises the error of
60_exceptions.md R252. DESIGN CHOICE (log 4): this split of R220's rows between fetch and `exec`. -/

namespace Sys2Proof.Machine

/-- The bytes of the element in progress that have been taken already, in stream order (R25, R93, R99). -/
def State.latched (s : State) : List Byte :=
  match s.phase with
  | .pMagic1 => [s.m0]
  | .pFirst1 => [s.flo]
  | .pLast0 => [s.flo, s.fhi]
  | .pLast1 => [s.flo, s.fhi, s.llo]
  | .pCtype => [s.flo, s.fhi, s.llo, s.lhi]
  | .lOff1 => [s.olo]
  | .pMagic0 | .pFirst0 | .pCopy | .lToken | .lLitext | .lLit | .lOff0 | .lMext | .lMatch
  | .eHdr | .eData | .done | .fault => []

/-- A byte that does not end its element: rows 2, 7, 10, 12, 15 and 33 of R220. -/
def State.latch (s : State) (x : Byte) : Option State :=
  match s.phase with
  | .pMagic0 => some ({ s.taken with m0 := x }.goto .pMagic1)
  | .pFirst0 => some ({ s.taken with flo := x }.goto .pFirst1)
  | .pFirst1 => some ({ s.taken with fhi := x }.goto .pLast0)
  | .pLast0 => some ({ s.taken with llo := x }.goto .pLast1)
  | .pLast1 => some ({ s.taken with lhi := x }.goto .pCtype)
  | .lOff0 => some ({ s.taken with olo := x }.goto .lOff1)
  | .pMagic1 | .pCopy | .pCtype | .lToken | .lLitext | .lLit | .lOff1 | .lMext | .lMatch
  | .eHdr | .eData | .done | .fault => none

/-- What the fetch of a step comes to. -/
inductive Fetched where
  /-- The element is complete: its instruction runs. -/
  | run (i : Instr)
  /-- The step ends here, in this state: a byte was latched, or an exception was taken. -/
  | moved (t : State)
  /-- No step exists. -/
  | stopped (f : Fault)
  deriving DecidableEq, Repr

/-- The fetch. In L_LIT a full buffer raises CapacityFault before an item is asked for (row 28 of R220,
R259); an illegal encoding has been consumed when it raises (row 4), the end of the stream has not (R256). -/
def State.fetch (s : State) : Fetched :=
  if s.phase = .lLit ∧ s.full = true then .moved (s.raise .capacityFault)
  else
    match decode s.phase (s.latched ++ s.item.toBytes) with
    | .ok i _ => .run i
    | .illegal e => .moved (s.taken.raise e)
    | .truncated e =>
      match s.item with
      | .eos => .moved (s.raise e)
      | .byte x =>
        match s.latch x with
        | some t => .moved t
        | none => .stopped .noLatch
    | .noElement => .stopped .stopped

/-! ### Placing an element at the cursor -/

/-- `bytes` at the cursor, in place of what stood there; no bytes: the stream ends at the cursor. -/
def State.placeBytes (s : State) (bytes : List Byte) : State :=
  let before := s.inp.take s.ipos
  match bytes with
  | [] => { s with inp := before, ipos := before.length }
  | _ :: _ =>
    { s with inp := before ++ bytes ++ s.inp.drop (s.ipos + bytes.length), ipos := before.length }

/-- Take all bytes but the last as the fetch does. -/
def State.latchAll (s : State) : List Byte → State
  | [] => s
  | x :: rest =>
    match s.latch x with
    | some t => t.latchAll rest
    | none => s

/-- The element of a table word placed so that the next step takes its last byte and runs it: its bytes stand
at the cursor, PHASE is the one it is recognised in, and all its bytes but the last have been fetched
(log 5). -/
def State.placeTableWord (s : State) (nbits w : Nat) : State :=
  match tablePhase nbits w with
  | none => s
  | some p =>
    ({ s.placeBytes (tableBytes nbits w) with phase := p }).latchAll (tableBytes nbits w).dropLast

end Sys2Proof.Machine
end

