-- ==== Sys2Proof/Machine/Step.lean ====
section
/-! DEFINITION. One step of the CORE (00_scope.md R14): fetch one item, and run the instruction it completes. -/

namespace Sys2Proof.Machine

/-- One step: one row of 43_control_and_arithmetic.md R220. -/
def step (s : State) : Host.Outcome State Fault Refusal :=
  match s.fetch with
  | .run i => exec i s
  | .moved t => .next t
  | .stopped f => .fault f

/-- `s` with the instruction of a table word placed so that the next step runs it (log 5). -/
def State.withFetchWord (s : State) (nbits w : Nat) : State := s.placeTableWord nbits w

end Sys2Proof.Machine
end

