-- ==== Sys2Proof/Machine/Reference.lean ====
section
/-! DEFINITION. The reference function `Run(IN, DEC_CAP)` of 43_control_and_arithmetic.md R230: the whole
behaviour as one function, written from R230's own text and sharing only the arithmetic with the step machine.
The bytes still to read stand for `ipos`. The two outer loops of R230 recurse on a counter one above the
number of bytes left: each round takes a byte, so it is never used up. -/

namespace Sys2Proof.Machine

/-- `(OUT, status, err, ipos, TRACE)` of R230; `err = none` on a clean stop. -/
structure RunResult where
  out : List Byte
  status : Status
  err : Option ErrKind
  ipos : Nat
  trace : List TraceRecord
  deriving DecidableEq, Repr

/-- `len(D) == DEC_CAP`. -/
def refFull (cap : Option Nat) (d : List Byte) : Bool :=
  match cap with
  | none => false
  | some c => decide (c ≤ d.length)

/-- The `repeat ... until e != 255` loop: the length after the extension and the bytes left, or nothing if the
stream ends inside it. -/
def refExtension : List Byte → Nat → Option (Nat × List Byte)
  | [], _ => none
  | e :: rest, v => if e = 0xFF then refExtension rest (v + 255) else some (v + e.toNat, rest)

/-- How a loop of the decoder ends: with the decoded bytes and the bytes left, or in an error with the bytes
left. -/
inductive RefResult where
  | going (d rest : List Byte)
  | failed (e : ErrKind) (rest : List Byte)
  deriving DecidableEq, Repr

/-- The `repeat litlen times` loop. -/
def refLiterals (cap : Option Nat) : Nat → List Byte → List Byte → RefResult
  | 0, rest, d => .going d rest
  | k + 1, rest, d =>
    if refFull cap d then .failed .capacityFault rest
    else
      match rest with
      | [] => .failed .truncatedBlock []
      | b :: rest' => refLiterals cap k rest' (d ++ [b])

/-- The `repeat mlen times` loop, with offset `off`, `1 <= off <= len(D)`. -/
def refCopy (cap : Option Nat) (off : Nat) (rest : List Byte) : Nat → List Byte → RefResult
  | 0, d => .going d rest
  | k + 1, d =>
    if refFull cap d then .failed .capacityFault rest
    else refCopy cap off rest k (d ++ (d[d.length - off]?).toList)

/-- From a token with low nibble `mcode` whose literals are done: the offset, the match length and the copy. -/
def refMatch (cap : Option Nat) (mcode : Nibble) (d : List Byte) : List Byte → RefResult
  | olo :: ohi :: rest =>
    let off := (u16 olo ohi).toNat
    if off = 0 ∨ d.length < off then .failed .corruptBlock rest
    else if mcode = 15 then
      match refExtension rest 19 with
      | none => .failed .truncatedBlock []
      | some (mlen, rest') => refCopy cap off rest' mlen d
    else refCopy cap off rest (4 + mcode.toNat) d
  | _ => .failed .truncatedBlock []

/-- The token and the literals of one sequence. -/
def refTokenLiterals (cap : Option Nat) (t : Byte) (rest d : List Byte) : RefResult :=
  if highNibble t = 15 then
    match refExtension rest 15 with
    | none => .failed .truncatedBlock []
    | some (litlen, rest') => refLiterals cap litlen rest' d
  else refLiterals cap (highNibble t).toNat rest d

/-- The `block` loop: it ends where an offset would start and no byte is left. -/
def refBlock (cap : Option Nat) : Nat → List Byte → List Byte → RefResult
  | 0, rest, _ => .failed .truncatedBlock rest
  | _ + 1, [], _ => .failed .truncatedBlock []
  | k + 1, t :: rest, d =>
    match refTokenLiterals cap t rest d with
    | .failed e rest' => .failed e rest'
    | .going d' [] => .going d' []
    | .going d' (b :: rest') =>
      match refMatch cap (lowNibble t) d' (b :: rest') with
      | .failed e rest'' => .failed e rest''
      | .going d'' rest'' => refBlock cap k rest'' d''

/-- The decoded bytes of a whole block, the block being all of `block` (decision D1). -/
def refDecode (cap : Option Nat) (block : List Byte) : RefResult :=
  refBlock cap (block.length + 1) block []

/-- A stop of the run with `rest` left to read. -/
def refStop (total : Nat) (out : List Byte) (err : Option ErrKind) (rest : List Byte)
    (trace : List TraceRecord) : RunResult :=
  { out := out, status := if err.isSome then .fault else .done, err := err,
    ipos := total - rest.length, trace := trace }

/-- The record loop. -/
def refRecords (cap : Option Nat) (total : Nat) :
    Nat → List Byte → List Byte → List TraceRecord → RunResult
  | 0, rest, out, trace => refStop total out (some .truncatedHeader) rest trace
  | _ + 1, [], out, trace => refStop total out none [] trace
  | k + 1, flo :: fhi :: rest, out, trace =>
    if flo = 0xFF ∧ fhi = 0xFF then refRecords cap total k rest out trace
    else
      match rest with
      | llo :: lhi :: rest' =>
        let first := u16 flo fhi
        let last := u16 llo lhi
        if first.toNat ≤ last.toNat then
          let count := last.toNat - first.toNat + 1
          let out' := out ++ [flo, fhi, llo, lhi] ++ rest'.take count
          if count ≤ rest'.length then
            refRecords cap total k (rest'.drop count) out' (trace ++ [.normal first last])
          else refStop total out' (some .truncatedSegment) [] trace
        else
          match rest' with
          | [] => refStop total out (some .truncatedHeader) [] trace
          | ctype :: block =>
            match refDecode cap block with
            | .failed e rest'' => refStop total out (some e) rest'' trace
            | .going d rest'' =>
              let v := recomputedLast first d.length
              refRecords cap total k rest'' (out ++ [flo, fhi, lo8 v, hi8 v] ++ d)
                (trace ++ [.compressed first v ctype d.length])
      | _ => refStop total out (some .truncatedHeader) [] trace
  | _ + 1, _, out, trace => refStop total out (some .truncatedHeader) [] trace

/-- `Run(IN, DEC_CAP)` (R230). -/
def refRun (cap : Option Nat) (input : List Byte) : RunResult :=
  match input with
  | m0 :: m1 :: rest =>
    if m0 ≠ 0xFF ∨ m1 ≠ 0xFF then refStop input.length [] (some .badMagic) rest []
    else refRecords cap input.length (rest.length + 1) rest [0xFF, 0xFF] []
  | _ => refStop input.length [] (some .badMagic) [] []

end Sys2Proof.Machine
end

