-- ==== Sys2Proof/Machine/Table.lean ====
section
/-! DEFINITION. The transition table of 43_control_and_arithmetic.md R220, row by row, as a second formulation
of a step that shares no decoder and no meaning with `step`. R220 says the table and the per-operation rules
must agree; that they do is stated in Certificates/Slice0/Obligations.lean. -/

namespace Sys2Proof.Machine

/-- The row of R220 that applies, with the state after its actions; `none` where no row applies. -/
def tableRow (s : State) : Option (Nat × State) :=
  match s.phase with
  | .pMagic0 =>
    match s.item with
    | .eos => some (1, s.raise .badMagic)
    | .byte x => some (2, { s.taken with m0 := x, phase := .pMagic1 })
  | .pMagic1 =>
    match s.item with
    | .eos => some (3, s.raise .badMagic)
    | .byte x =>
      if s.m0 ≠ 0xFF ∨ x ≠ 0xFF then some (4, s.taken.raise .badMagic)
      else some (5, { s.taken with out := s.out ++ [0xFF, 0xFF], phase := .pFirst0 })
  | .pFirst0 =>
    match s.item with
    | .eos => some (6, { s with phase := .done })
    | .byte x => some (7, { s.taken with flo := x, phase := .pFirst1 })
  | .pFirst1 =>
    match s.item with
    | .eos => some (8, s.raise .truncatedHeader)
    | .byte x =>
      if s.flo = 0xFF ∧ x = 0xFF then some (9, { s.taken with fhi := x, phase := .pFirst0 })
      else some (10, { s.taken with fhi := x, phase := .pLast0 })
  | .pLast0 =>
    match s.item with
    | .eos => some (11, s.raise .truncatedHeader)
    | .byte x => some (12, { s.taken with llo := x, phase := .pLast1 })
  | .pLast1 =>
    match s.item with
    | .eos => some (13, s.raise .truncatedHeader)
    | .byte x =>
      let first := u16 s.flo s.fhi
      let last := u16 s.llo x
      if first.toNat ≤ last.toNat then
        some (14, { s.taken with
          lhi := x, out := s.out ++ [s.flo, s.fhi, s.llo, x],
          rem := BitVec.ofNat 17 (last.toNat - first.toNat + 1), phase := .pCopy })
      else some (15, { s.taken with lhi := x, phase := .pCtype })
  | .pCopy =>
    match s.item with
    | .eos => some (16, s.raise .truncatedSegment)
    | .byte x =>
      if 1 < s.rem.toNat then
        some (17, { s.taken with out := s.out ++ [x], rem := s.rem - 1, phase := .pCopy })
      else if s.rem.toNat = 1 then
        some (18, { s.taken with
          out := s.out ++ [x], rem := 0, trace := s.trace ++ [.normal s.first s.last],
          phase := .pFirst0 })
      else none
  | .pCtype =>
    match s.item with
    | .eos => some (19, s.raise .truncatedHeader)
    | .byte x => some (20, { s.taken with ctype := x, dbuf := ⟨[]⟩, phase := .lToken })
  | .lToken =>
    match s.item with
    | .eos => some (21, s.raise .truncatedBlock)
    | .byte x =>
      if highNibble x = 15 then
        some (22, { s.taken with token := x, litlen := 15, phase := .lLitext })
      else if 1 ≤ (highNibble x).toNat then
        some (23, { s.taken with token := x, litlen := (highNibble x).toNat, phase := .lLit })
      else some (24, { s.taken with token := x, litlen := 0, phase := .lOff0 })
  | .lLitext =>
    match s.item with
    | .eos => some (25, s.raise .truncatedBlock)
    | .byte x =>
      if x = 255 then some (26, { s.taken with litlen := s.litlen + 255, phase := .lLitext })
      else some (27, { s.taken with litlen := s.litlen + x.toNat, phase := .lLit })
  | .lLit =>
    if s.full then some (28, s.raise .capacityFault)
    else
      match s.item with
      | .eos => some (29, s.raise .truncatedBlock)
      | .byte x =>
        if 1 < s.litlen then
          some (30, { s.taken with
            dbuf := s.dbuf.append x, litlen := s.litlen - 1, phase := .lLit })
        else if s.litlen = 1 then
          some (31, { s.taken with dbuf := s.dbuf.append x, litlen := 0, phase := .lOff0 })
        else none
  | .lOff0 =>
    match s.item with
    | .eos => some (32, { s with phase := .eHdr })
    | .byte x => some (33, { s.taken with olo := x, phase := .lOff1 })
  | .lOff1 =>
    match s.item with
    | .eos => some (34, s.raise .truncatedBlock)
    | .byte x =>
      let d := u16 s.olo x
      if d.toNat = 0 ∨ s.n < d.toNat then some (35, s.taken.raise .corruptBlock)
      else if lowNibble s.token = 15 then
        some (36, { s.taken with offs := d, mlen := 19, phase := .lMext })
      else
        some (37, { s.taken with
          offs := d, mlen := 4 + (lowNibble s.token).toNat, phase := .lMatch })
  | .lMext =>
    match s.item with
    | .eos => some (38, s.raise .truncatedBlock)
    | .byte x =>
      if x = 255 then some (39, { s.taken with mlen := s.mlen + 255, phase := .lMext })
      else some (40, { s.taken with mlen := s.mlen + x.toNat, phase := .lMatch })
  | .lMatch =>
    if s.full then some (41, s.raise .capacityFault)
    else
      match s.backReference with
      | none => none
      | some b =>
        if 1 < s.mlen then
          some (42, { s with dbuf := s.dbuf.append b, mlen := s.mlen - 1, phase := .lMatch })
        else if s.mlen = 1 then
          some (43, { s with dbuf := s.dbuf.append b, mlen := 0, phase := .lToken })
        else none
  | .eHdr =>
    let v := recomputedLast s.first s.n
    let out := s.out ++ [s.flo, s.fhi, lo8 v, hi8 v]
    if s.n = 0 then
      some (44, { s with
        out := out, trace := s.trace ++ [.compressed s.first v s.ctype 0], phase := .pFirst0 })
    else some (45, { s with out := out, eidx := 0, phase := .eData })
  | .eData =>
    match s.dbuf.read s.eidx with
    | none => none
    | some b =>
      if s.eidx + 1 = s.n then
        some (47, { s with
          out := s.out ++ [b], eidx := s.eidx + 1,
          trace := s.trace ++
            [.compressed s.first (recomputedLast s.first s.n) s.ctype s.n],
          phase := .pFirst0 })
      else some (46, { s with out := s.out ++ [b], eidx := s.eidx + 1, phase := .eData })
  | .done => none
  | .fault => none

end Sys2Proof.Machine
end

