-- ==== Sys2Proof/Safety.lean ====
section
/-! DEFINITION. The terms claims are made in: the invariant of every reachable state, the causes of a fault
stop (60_exceptions.md R252), which registers a phase can still read (10_state.md R25, R27), and the finite
counters of 43_control_and_arithmetic.md R241. -/

namespace Sys2Proof.Machine

/-! ### Kinds of phase -/

/-- The phases in which FLO and FHI hold the `first` of a real header (rows 10 to 47 of R220). -/
def Phase.hasRealHeader : Phase → Bool
  | .pLast0 | .pLast1 | .pCopy | .pCtype | .lToken | .lLitext | .lLit | .lOff0 | .lOff1 | .lMext
  | .lMatch | .eHdr | .eData => true
  | .pMagic0 | .pMagic1 | .pFirst0 | .pFirst1 | .done | .fault => false

/-- The phases of a compressed segment once its header is complete (rows 19 to 47 of R220). -/
def Phase.inCompressed : Phase → Bool
  | .pCtype | .lToken | .lLitext | .lLit | .lOff0 | .lOff1 | .lMext | .lMatch | .eHdr | .eData => true
  | .pMagic0 | .pMagic1 | .pFirst0 | .pFirst1 | .pLast0 | .pLast1 | .pCopy | .done | .fault => false

/-- The phases in which an element starts; in the other six an element is under way (R21). -/
def Phase.startsElement : Phase → Bool
  | .pMagic0 | .pFirst0 | .pCopy | .lToken | .lLitext | .lLit | .lOff0 | .lMext | .lMatch | .eHdr
  | .eData => true
  | .pMagic1 | .pFirst1 | .pLast0 | .pLast1 | .pCtype | .lOff1 | .done | .fault => false

/-! ### The invariant -/

/-- Whether a byte sequence begins with the file header FF FF. -/
def startsWithMagic (bs : List Byte) : Prop := [Config.magic, Config.magic] <+: bs

/-- OUT begins FF FF from the end of the file header on, and is empty before it and after BadMagic; the input
began FF FF in the first case and did not after BadMagic (R130, R137). -/
def State.magicInOut (s : State) : Prop :=
  if s.phase = .pMagic0 ∨ s.phase = .pMagic1 then s.out = []
  else if s.phase = .fault ∧ s.err = ErrKind.badMagic.code then s.out = [] ∧ ¬ startsWithMagic s.inp
  else startsWithMagic s.out ∧ startsWithMagic s.inp

/-- What holds in every state a run reaches. -/
structure Inv (s : State) : Prop where
  /-- DBUF is in canonical form. -/
  dbuf_wf : s.dbuf.wf
  /-- R23: the cursor is at most `len(IN)`. -/
  cursor : s.ipos ≤ s.inp.length
  /-- R31: ERR is not 0 exactly in FAULT. -/
  err_iff : s.err ≠ 0 ↔ s.phase = .fault
  /-- R31: 7 is never written. -/
  err_legal : s.err ≠ 7
  /-- R33: N never exceeds DEC_CAP. -/
  capacity : ∀ c, s.cfg.decCap = some c → s.n ≤ c
  /-- R91: the file header is at offsets 0 and 1. -/
  magic0 : s.phase = .pMagic0 → s.ipos = 0
  magic1 : s.phase = .pMagic1 → s.ipos = 1 ∧ s.inp[0]? = some s.m0
  magic : s.magicInOut
  /-- R73: the `first` of a real header is not 0xFFFF. -/
  real_header : s.phase.hasRealHeader = true → s.first ≠ 0xFFFF
  /-- R93: `last < first` in a compressed segment. -/
  compressed : s.phase.inCompressed = true → s.last.toNat < s.first.toNat
  /-- R134: `first <= last` and REM from 1 to the payload length while copying. -/
  copying : s.phase = .pCopy →
    s.first.toNat ≤ s.last.toNat ∧ 1 ≤ s.rem.toNat ∧ s.rem.toNat ≤ s.last.toNat - s.first.toNat + 1
  /-- R163: a literal-length extension starts from 15. -/
  lit_extension : s.phase = .lLitext → 15 ≤ s.litlen
  /-- R164: L_LIT is entered with LITLEN at least 1. -/
  literals : s.phase = .lLit → 1 ≤ s.litlen
  /-- R162, R164: no literal is outstanding where an offset is read. -/
  literals_done : s.phase = .lOff0 ∨ s.phase = .lOff1 → s.litlen = 0
  /-- R168, R171: the offset stays legal. -/
  offset : s.phase = .lMext ∨ s.phase = .lMatch → 1 ≤ s.offs.toNat ∧ s.offs.toNat ≤ s.n
  /-- R169, R170: a match-length extension starts from 19. -/
  match_extension : s.phase = .lMext → 19 ≤ s.mlen
  /-- R170: L_MATCH is entered with MLEN at least 1. -/
  matching : s.phase = .lMatch → 1 ≤ s.mlen
  /-- R203: E_DATA is entered with EIDX below N. -/
  emitting : s.phase = .eData → s.eidx < s.n
  /-- R167, R232: emission and the clean stop come after the last input byte. -/
  exhausted : s.phase = .eHdr ∨ s.phase = .eData ∨ s.phase = .done → s.ipos = s.inp.length

/-! ### The causes of a fault stop -/

/-- R252, row by row: the error the next step raises, if any, in the priority of R259. -/
def faultCause (s : State) : Option ErrKind :=
  match s.phase, s.item with
  | .pMagic0, .eos => some .badMagic
  | .pMagic1, .eos => some .badMagic
  | .pMagic1, .byte x => if s.m0 ≠ 0xFF ∨ x ≠ 0xFF then some .badMagic else none
  | .pFirst1, .eos => some .truncatedHeader
  | .pLast0, .eos => some .truncatedHeader
  | .pLast1, .eos => some .truncatedHeader
  | .pCtype, .eos => some .truncatedHeader
  | .pCopy, .eos => some .truncatedSegment
  | .lToken, .eos => some .truncatedBlock
  | .lLitext, .eos => some .truncatedBlock
  | .lLit, .eos => if s.full then some .capacityFault else some .truncatedBlock
  | .lLit, .byte _ => if s.full then some .capacityFault else none
  | .lOff1, .eos => some .truncatedBlock
  | .lOff1, .byte x =>
    if (u16 s.olo x).toNat = 0 ∨ s.n < (u16 s.olo x).toNat then some .corruptBlock else none
  | .lMext, .eos => some .truncatedBlock
  | .lMatch, _ => if s.full then some .capacityFault else none
  | _, _ => none

/-- R256: the byte that revealed the error has been consumed in rows 4 and 35, nothing in the others. -/
def faultTakesByte (s : State) : Bool :=
  match s.phase with
  | .pMagic1 | .lOff1 => true
  | .pMagic0 | .pFirst0 | .pFirst1 | .pLast0 | .pLast1 | .pCopy | .pCtype | .lToken | .lLitext | .lLit
  | .lOff0 | .lMext | .lMatch | .eHdr | .eData | .done | .fault => false

/-! ### Which registers are still read -/

/-- The two states agree on everything but the data registers (and DBUF) that no later step reads before a
step has written them: the "read in" column of R25, followed to where each register is next written
(R27, R28). -/
structure LiveAgree (s t : State) : Prop where
  cfg : s.cfg = t.cfg
  phase : s.phase = t.phase
  err : s.err = t.err
  inp : s.inp = t.inp
  ipos : s.ipos = t.ipos
  out : s.out = t.out
  trace : s.trace = t.trace
  m0 : s.phase = .pMagic1 → s.m0 = t.m0
  flo : s.phase = .pFirst1 ∨ s.phase.hasRealHeader = true → s.flo = t.flo
  fhi : s.phase.hasRealHeader = true → s.fhi = t.fhi
  llo : s.phase = .pLast1 ∨ s.phase = .pCopy → s.llo = t.llo
  lhi : s.phase = .pCopy → s.lhi = t.lhi
  rem : s.phase = .pCopy → s.rem = t.rem
  ctype : s.phase.isDecoder = true ∨ s.phase.isEmitter = true → s.ctype = t.ctype
  dbuf : s.phase.isDecoder = true ∨ s.phase.isEmitter = true → s.dbuf = t.dbuf
  token : s.phase = .lLitext ∨ s.phase = .lLit ∨ s.phase = .lOff0 ∨ s.phase = .lOff1 → s.token = t.token
  litlen : s.phase = .lLitext ∨ s.phase = .lLit → s.litlen = t.litlen
  olo : s.phase = .lOff1 → s.olo = t.olo
  offs : s.phase = .lMext ∨ s.phase = .lMatch → s.offs = t.offs
  mlen : s.phase = .lMext ∨ s.phase = .lMatch → s.mlen = t.mlen
  eidx : s.phase = .eData → s.eidx = t.eidx

/-! ### Finite counters -/

/-- LITLEN and MLEN held in registers that saturate at `c + 1` (R241). -/
def State.saturate (c : Nat) (s : State) : State :=
  { s with litlen := min s.litlen (c + 1), mlen := min s.mlen (c + 1) }

/-- `k` steps of a CORE whose counters saturate at `c + 1` after every step (R241). -/
def saturatedRun (c : Nat) : Nat → State → Host.Outcome State Fault Refusal
  | 0, s => .next s
  | k + 1, s =>
    match step s with
    | .next t => saturatedRun c k (t.saturate c)
    | .fault f => .fault f
    | .refused r => .refused r

/-! ### What a run leaves -/

/-- `(OUT, status, err, ipos, TRACE)` of a state, in the form of R230's result. -/
def State.matchesResult (s : State) (r : RunResult) : Prop :=
  s.out = r.out ∧ s.status = r.status ∧
  s.err = (match r.err with | none => 0 | some e => e.code) ∧
  s.ipos = r.ipos ∧ s.trace = r.trace

/-- A record of a stream without compressed segments: a dummy header or a normal segment (R90). -/
inductive PlainRecord where
  | dummy
  | normal (first last : Half) (payload : List Byte)
  deriving DecidableEq, Repr

/-- R105: `last >= first`, `first != 0xFFFF` and the payload has `last - first + 1` bytes. -/
def PlainRecord.wellFormed : PlainRecord → Bool
  | .dummy => true
  | .normal first last payload =>
    (Instr.segn first last).wellFormed && decide (payload.length = last.toNat - first.toNat + 1)

/-- The elements of a record. -/
def PlainRecord.elements : PlainRecord → List Instr
  | .dummy => [.dummy]
  | .normal first last payload => normalSegment first last payload

/-- The elements without the dummy headers. -/
def PlainRecord.kept : PlainRecord → List Instr
  | .dummy => []
  | .normal first last payload => normalSegment first last payload

end Sys2Proof.Machine
end

