-- ==== Sys2Proof/Certificates/Slice0/Obligations.lean ====
section
/-! DEFINITION. The statements for the provers. Each docstring names the rules of spec/ it formalises. -/

open Sys2Proof Sys2Proof.Machine

/-! ### The instructions, one statement per operation rule -/

/-- R130, FHDR: both steps of the file header, with BadMagic (decisions D11, D12). The equations name every
field that changes, so they are the frame as well. -/
def Obligations.FileHeaderIsReadAndChecked : Prop := ∀ s : State,
  (s.phase = .pMagic0 → s.item = .eos → step s = .next (s.raise .badMagic)) ∧
  (∀ x, s.phase = .pMagic0 → s.item = .byte x →
    step s = .next { s with ipos := s.ipos + 1, m0 := x, phase := .pMagic1 }) ∧
  (s.phase = .pMagic1 → s.item = .eos → step s = .next (s.raise .badMagic)) ∧
  (∀ x, s.phase = .pMagic1 → s.item = .byte x → (s.m0 ≠ 0xFF ∨ x ≠ 0xFF) →
    step s = .next ({ s with ipos := s.ipos + 1 }.raise .badMagic)) ∧
  (s.phase = .pMagic1 → s.item = .byte 0xFF → s.m0 = 0xFF →
    step s = exec .fhdr s ∧
    exec .fhdr s =
      .next { s with ipos := s.ipos + 1, out := s.out ++ [0xFF, 0xFF], phase := .pFirst0 })

/-- R131, EOF: the clean end of file, which changes PHASE alone. -/
def Obligations.EndOfFileStopsCleanly : Prop := ∀ s : State,
  s.phase = .pFirst0 → s.item = .eos →
    step s = exec .eof s ∧ exec .eof s = .next { s with phase := .done }

/-- R132, DUMMY and the first half of every header (decision D9). -/
def Obligations.DummyHeaderIsDropped : Prop := ∀ s : State,
  (∀ x, s.phase = .pFirst0 → s.item = .byte x →
    step s = .next { s with ipos := s.ipos + 1, flo := x, phase := .pFirst1 }) ∧
  (s.phase = .pFirst1 → s.item = .eos → step s = .next (s.raise .truncatedHeader)) ∧
  (s.phase = .pFirst1 → s.item = .byte 0xFF → s.flo = 0xFF →
    step s = exec .dummy s ∧
    exec .dummy s = .next { s with ipos := s.ipos + 1, fhi := 0xFF, phase := .pFirst0 }) ∧
  (∀ x, s.phase = .pFirst1 → s.item = .byte x → ¬ (s.flo = 0xFF ∧ x = 0xFF) →
    step s = .next { s with ipos := s.ipos + 1, fhi := x, phase := .pLast0 })

/-- R133: the second half of a header, LHI written either way, and the choice between SEGN (R134) and SEGC
(R136). -/
def Obligations.HeaderIsCompletedAndClassified : Prop := ∀ s : State,
  (s.phase = .pLast0 → s.item = .eos → step s = .next (s.raise .truncatedHeader)) ∧
  (∀ x, s.phase = .pLast0 → s.item = .byte x →
    step s = .next { s with ipos := s.ipos + 1, llo := x, phase := .pLast1 }) ∧
  (s.phase = .pLast1 → s.item = .eos → step s = .next (s.raise .truncatedHeader)) ∧
  (∀ x, s.phase = .pLast1 → s.item = .byte x →
    (u16 s.flo s.fhi).toNat ≤ (u16 s.llo x).toNat →
      step s = exec (.segn (u16 s.flo s.fhi) (u16 s.llo x)) s ∧
      ∃ t, exec (.segn (u16 s.flo s.fhi) (u16 s.llo x)) s = .next t ∧ t.lhi = x) ∧
  (∀ x, s.phase = .pLast1 → s.item = .byte x →
    (u16 s.llo x).toNat < (u16 s.flo s.fhi).toNat →
      step s = .next { s with ipos := s.ipos + 1, lhi := x, phase := .pCtype })

/-- R134, SEGN: the four header bytes to OUT and the payload length, 17 bits without wrap, to REM
(decisions D16, D18). -/
def Obligations.NormalSegmentHeaderIsCopied : Prop := ∀ (s : State) (x : Byte),
  s.phase = .pLast1 → s.item = .byte x → (u16 s.flo s.fhi).toNat ≤ (u16 s.llo x).toNat →
    ∃ r : BitVec 17, r.toNat = (u16 s.llo x).toNat - (u16 s.flo s.fhi).toNat + 1 ∧
      exec (.segn (u16 s.flo s.fhi) (u16 s.llo x)) s =
        .next { s with
          ipos := s.ipos + 1, lhi := x, out := s.out ++ [s.flo, s.fhi, s.llo, x], rem := r,
          phase := .pCopy }

/-- R135, PAYLOAD: one byte copied, REM counted down, the trace record at the end, TruncatedSegment. -/
def Obligations.PayloadByteIsCopied : Prop := ∀ s : State,
  (s.phase = .pCopy → s.item = .eos → step s = .next (s.raise .truncatedSegment)) ∧
  (∀ x, s.phase = .pCopy → s.item = .byte x → 1 < s.rem.toNat →
    step s = exec (.payload x) s ∧
    ∃ r : BitVec 17, r.toNat = s.rem.toNat - 1 ∧
      exec (.payload x) s =
        .next { s with ipos := s.ipos + 1, out := s.out ++ [x], rem := r, phase := .pCopy }) ∧
  (∀ x, s.phase = .pCopy → s.item = .byte x → s.rem.toNat = 1 →
    step s = exec (.payload x) s ∧
    exec (.payload x) s =
      .next { s with
        ipos := s.ipos + 1, out := s.out ++ [x], rem := 0,
        trace := s.trace ++ [.normal (u16 s.flo s.fhi) (u16 s.llo s.lhi)], phase := .pFirst0 })

/-- R136, SEGC: the header of a compressed segment writes nothing; the compression-type byte is kept and
DBUF starts empty (decision D10). -/
def Obligations.CompressedSegmentStartsTheDecoder : Prop := ∀ s : State,
  (∀ x, s.phase = .pLast1 → s.item = .byte x →
    (u16 s.llo x).toNat < (u16 s.flo s.fhi).toNat →
      step s = .next { s with ipos := s.ipos + 1, lhi := x, phase := .pCtype }) ∧
  (s.phase = .pCtype → s.item = .eos → step s = .next (s.raise .truncatedHeader)) ∧
  (∀ x, s.phase = .pCtype → s.item = .byte x →
    step s = exec (.segc s.first s.last x) s ∧
    exec (.segc s.first s.last x) s =
      .next { s with ipos := s.ipos + 1, ctype := x, dbuf := ⟨[]⟩, phase := .lToken })

/-- R162, TOKEN: all 256 values, the three next phases, TruncatedBlock. -/
def Obligations.TokenStartsASequence : Prop := ∀ s : State,
  (s.phase = .lToken → s.item = .eos → step s = .next (s.raise .truncatedBlock)) ∧
  (∀ x : Byte, s.phase = .lToken → s.item = .byte x →
    step s = exec (.token (x.extractLsb' 4 4) (x.extractLsb' 0 4)) s ∧
    exec (.token (x.extractLsb' 4 4) (x.extractLsb' 0 4)) s =
      .next { s with
        ipos := s.ipos + 1, token := x, litlen := x.toNat / 16,
        phase :=
          if x.toNat / 16 = 15 then .lLitext else if 0 < x.toNat / 16 then .lLit else .lOff0 })

/-- R163, LEXT.C and LEXT.E: the byte is added without wrap; 255 continues. -/
def Obligations.LiteralLengthIsExtended : Prop := ∀ s : State,
  (s.phase = .lLitext → s.item = .eos → step s = .next (s.raise .truncatedBlock)) ∧
  (s.phase = .lLitext → s.item = .byte 255 →
    step s = exec .lextC s ∧
    exec .lextC s =
      .next { s with ipos := s.ipos + 1, litlen := s.litlen + 255, phase := .lLitext }) ∧
  (∀ x, s.phase = .lLitext → s.item = .byte x → x ≠ 255 →
    step s = exec (.lextE x) s ∧
    exec (.lextE x) s =
      .next { s with ipos := s.ipos + 1, litlen := s.litlen + x.toNat, phase := .lLit })

/-- R164, LIT: CapacityFault before the byte is taken, TruncatedBlock, the append. The buffer is full when
`N == DEC_CAP`; DEC_CAP = ∞ is `none`. -/
def Obligations.LiteralByteIsAppended : Prop := ∀ s : State,
  (s.phase = .lLit → s.cfg.decCap = some s.n → step s = .next (s.raise .capacityFault)) ∧
  (∀ x, s.cfg.decCap = some s.n → exec (.lit x) s = .next (s.raise .capacityFault)) ∧
  (s.phase = .lLit → (∀ c, s.cfg.decCap = some c → s.n < c) → s.item = .eos →
    step s = .next (s.raise .truncatedBlock)) ∧
  (∀ x, s.phase = .lLit → (∀ c, s.cfg.decCap = some c → s.n < c) → s.item = .byte x →
    1 ≤ s.litlen →
      step s = exec (.lit x) s ∧
      exec (.lit x) s =
        .next { s with
          ipos := s.ipos + 1, dbuf := s.dbuf.append x, litlen := s.litlen - 1,
          phase := if s.litlen - 1 = 0 then .lOff0 else .lLit })

/-- R167, BLKEND: end of stream where an offset would start ends the block. The premise on TERM_RULE is
decision D1 (log 9), which every claim about a block carries; `Config` admits no other rule. -/
def Obligations.BlockEndsAtEndOfStream : Prop := ∀ s : State,
  s.cfg.termRule = .eosAtOffset → s.phase = .lOff0 → s.item = .eos →
    step s = exec .blkend s ∧ exec .blkend s = .next { s with phase := .eHdr }

/-- R168, MOFF: the offset is read low byte first and checked before the match length is extended
(decisions D13, D14, D15). -/
def Obligations.MatchOffsetIsReadAndChecked : Prop := ∀ s : State,
  (∀ x, s.phase = .lOff0 → s.item = .byte x →
    step s = .next { s with ipos := s.ipos + 1, olo := x, phase := .lOff1 }) ∧
  (s.phase = .lOff1 → s.item = .eos → step s = .next (s.raise .truncatedBlock)) ∧
  (∀ x, s.phase = .lOff1 → s.item = .byte x →
    ((u16 s.olo x).toNat = 0 ∨ s.n < (u16 s.olo x).toNat) →
      step s = exec (.moff (u16 s.olo x)) s ∧
      exec (.moff (u16 s.olo x)) s = .next ({ s with ipos := s.ipos + 1 }.raise .corruptBlock)) ∧
  (∀ x, s.phase = .lOff1 → s.item = .byte x →
    1 ≤ (u16 s.olo x).toNat → (u16 s.olo x).toNat ≤ s.n →
      step s = exec (.moff (u16 s.olo x)) s ∧
      exec (.moff (u16 s.olo x)) s =
        .next { s with
          ipos := s.ipos + 1, offs := u16 s.olo x, mlen := 4 + s.token.toNat % 16,
          phase := if s.token.toNat % 16 = 15 then .lMext else .lMatch })

/-- R169, MEXT.C and MEXT.E. -/
def Obligations.MatchLengthIsExtended : Prop := ∀ s : State,
  (s.phase = .lMext → s.item = .eos → step s = .next (s.raise .truncatedBlock)) ∧
  (s.phase = .lMext → s.item = .byte 255 →
    step s = exec .mextC s ∧
    exec .mextC s =
      .next { s with ipos := s.ipos + 1, mlen := s.mlen + 255, phase := .lMext }) ∧
  (∀ x, s.phase = .lMext → s.item = .byte x → x ≠ 255 →
    step s = exec (.mextE x) s ∧
    exec (.mextE x) s =
      .next { s with ipos := s.ipos + 1, mlen := s.mlen + x.toNat, phase := .lMatch })

/-- R171, MATCH: CapacityFault, and the copy of the byte OFFS behind the write position. -/
def Obligations.MatchByteIsCopied : Prop := ∀ s : State,
  (s.phase = .lMatch → step s = exec .matchCopy s) ∧
  (s.cfg.decCap = some s.n → exec .matchCopy s = .next (s.raise .capacityFault)) ∧
  ((∀ c, s.cfg.decCap = some c → s.n < c) → s.dbuf.wf → 1 ≤ s.mlen → 1 ≤ s.offs.toNat →
    s.offs.toNat ≤ s.n →
      ∃ b, s.dbuf.read (s.n - s.offs.toNat) = some b ∧
        exec .matchCopy s =
          .next { s with
            dbuf := s.dbuf.append b, mlen := s.mlen - 1,
            phase := if s.mlen - 1 = 0 then .lToken else .lMatch })

/-- R201, EMITH: the header of the decoded segment with the recomputed `last`. The value of `v` is R201's sum
in the integers, reduced with the `mod` that R10 defines (also at `first = 0`, N = 0, which no run reaches). -/
def Obligations.DecodedHeaderIsEmitted : Prop := ∀ s : State,
  (s.phase = .eHdr → step s = exec .emith s) ∧
  ∃ v : Half, (v.toNat : Int) = ((u16 s.flo s.fhi).toNat + s.n - 1 : Int) % 65536 ∧
    exec .emith s =
      if s.n = 0 then
        .next { s with
          out := s.out ++ [s.flo, s.fhi, lo8 v, hi8 v],
          trace := s.trace ++ [.compressed (u16 s.flo s.fhi) v s.ctype 0], phase := .pFirst0 }
      else
        .next { s with
          out := s.out ++ [s.flo, s.fhi, lo8 v, hi8 v], eidx := 0, phase := .eData }

/-- R203, EMITD: one byte of DBUF to OUT; the trace record after the last. -/
def Obligations.DecodedByteIsEmitted : Prop := ∀ s : State,
  (s.phase = .eData → step s = exec .emitd s) ∧
  (s.dbuf.wf → s.eidx < s.n →
    ∃ (b : Byte) (v : Half), s.dbuf.read s.eidx = some b ∧
      (v.toNat : Int) = ((u16 s.flo s.fhi).toNat + s.n - 1 : Int) % 65536 ∧
      exec .emitd s =
        if s.eidx + 1 = s.n then
          .next { s with
            out := s.out ++ [b], eidx := s.eidx + 1,
            trace := s.trace ++ [.compressed (u16 s.flo s.fhi) v s.ctype s.n],
            phase := .pFirst0 }
        else .next { s with out := s.out ++ [b], eidx := s.eidx + 1, phase := .eData })

/-! ### Reset, stops, status -/

/-- R38: what reset leaves, asserted in any state, and in `State.reset`. Of the data registers, which R38
leaves unspecified, nothing is said (log 1). -/
def Obligations.ResetLeavesTheSpecifiedValues : Prop :=
  (∀ (s : State) (fresh : List Byte),
    let t := s.assertReset fresh
    t.phase = .pMagic0 ∧ t.err = 0 ∧ t.status = .run ∧ t.n = 0 ∧ t.ipos = 0 ∧ t.opos = 0 ∧
    t.trace = [] ∧ t.out = []) ∧
  State.reset.phase = .pMagic0 ∧ State.reset.err = 0 ∧ State.reset.status = .run ∧
  State.reset.n = 0 ∧ State.reset.ipos = 0 ∧ State.reset.opos = 0 ∧ State.reset.trace = [] ∧
  State.reset.out = []

/-- 70_reset_and_hazards.md sections 1 and 3: a reset begins a run on the fresh input with the same parameters,
and nothing of the abandoned run is left. That reset is an operation of the host and not a step is the model's
choice (log 14), as are `State.reset`'s empty input (log 2) and its registers (log 1). -/
def Obligations.ResetStartsAFreshRun : Prop :=
  (∀ (s : State) (fresh : List Byte),
    (s.assertReset fresh).inp = fresh ∧ (s.assertReset fresh).cfg = s.cfg) ∧
  (∀ (s s' : State) (fresh : List Byte), s.cfg = s'.cfg →
    s.assertReset fresh = s'.assertReset fresh) ∧
  State.reset = State.reset.assertReset []

/-- R22, R258: no step exists in DONE and FAULT. In the model that is the fault `stopped` (log 6). -/
def Obligations.NoStepAfterAStop : Prop := ∀ s : State,
  (s.phase = .done ∨ s.phase = .fault) ↔ step s = .fault .stopped

/-- R30: STATUS is a function of PHASE. -/
def Obligations.StatusFollowsPhase : Prop := ∀ s : State,
  (s.phase = .done → s.status = .done) ∧ (s.phase = .fault → s.status = .fault) ∧
  (s.phase ≠ .done → s.phase ≠ .fault → s.status = .run)

/-- R256: `raise` writes ERR and PHASE and nothing else, and the machine is then stopped, which in the model is
the fault `stopped` (log 6). The codes are those of R251. -/
def Obligations.RaiseWritesErrAndPhaseOnly : Prop := ∀ (s : State) (e : ErrKind),
  s.raise e = { s with err := e.code, phase := .fault } ∧ (s.raise e).status = .fault ∧
  step (s.raise e) = .fault .stopped ∧
  [ErrKind.badMagic.code, ErrKind.truncatedHeader.code, ErrKind.truncatedSegment.code,
    ErrKind.truncatedBlock.code, ErrKind.corruptBlock.code, ErrKind.capacityFault.code] =
    [1, 2, 3, 4, 5, 6]

/-- R252 with the priority of R259: the next step raises an error exactly in the listed cases, that error, and
the byte has been consumed exactly where R256 says so. N is at most a finite DEC_CAP, as in every state a run
reaches (R33; `Inv`). -/
def Obligations.ErrorsHaveExactlyTheListedCauses : Prop := ∀ s : State,
  (∀ c, s.cfg.decCap = some c → s.n ≤ c) →
  (∀ e, faultCause s = some e →
    step s =
      .next ((if faultTakesByte s ∧ s.item ≠ .eos then { s with ipos := s.ipos + 1 } else s).raise e)) ∧
  (∀ t, step s = .next t → t.phase = .fault → ∃ e, faultCause s = some e)

/-! ### A step and the decoder -/

/-- A step runs the decoded instruction: when the bytes taken so far and the next item are an element, the
step is `exec` of it, with nothing added (log 4). -/
def Obligations.StepRunsTheDecodedInstruction : Prop := ∀ (s : State) (i : Instr) (rest : List Byte),
  decode s.phase (s.latched ++ s.item.toBytes) = .ok i rest → step s = exec i s

/-- What a step does where no instruction is complete: it keeps the byte in its register, or raises; a byte of
an illegal encoding has been consumed, the end of the stream has not (R256). In L_LIT with a full buffer no
item is asked for (R259). -/
def Obligations.StepOfAnUnfinishedElement : Prop := ∀ (s : State) (e : ErrKind),
  ¬ (s.phase = .lLit ∧ s.full = true) →
    (decode s.phase (s.latched ++ s.item.toBytes) = .truncated e → s.item = .eos →
      step s = .next (s.raise e)) ∧
    (∀ x, decode s.phase (s.latched ++ s.item.toBytes) = .truncated e → s.item = .byte x →
      ∃ t, s.latch x = some t ∧ step s = .next t ∧ t.ipos = s.ipos + 1 ∧
        t.latched = s.latched ++ [x]) ∧
    (decode s.phase (s.latched ++ s.item.toBytes) = .illegal e →
      step s = .next ({ s with ipos := s.ipos + 1 }.raise e))

/-- Words written out from the encoding tables of 30_encoding.md: one or more of every family. -/
def Obligations.WrittenOutWordsDecode : Prop :=
  decode .pMagic0 [0xFF, 0xFF] = .ok .fhdr [] ∧
  decode .pMagic0 [0xFF, 0xFE] = .illegal .badMagic ∧
  decode .pFirst0 [] = .ok .eof [] ∧
  decode .pFirst0 [0xFF, 0xFF] = .ok .dummy [] ∧
  decode .pFirst0 [0x00, 0x20, 0x03, 0x20] = .ok (.segn 0x2000 0x2003) [] ∧
  decode .pFirst0 [0xFF, 0x00, 0x00, 0x01] = .ok (.segn 0x00FF 0x0100) [] ∧
  decode .pFirst0 [0x00, 0x20, 0xFF, 0x1F, 0x01] = .ok (.segc 0x2000 0x1FFF 0x01) [] ∧
  decode .lToken [0x52] = .ok (.token 5 2) [] ∧
  decode .lLitext [0xFF] = .ok .lextC [] ∧
  decode .lLitext [0x0A] = .ok (.lextE 0x0A) [] ∧
  decode .lOff0 [0x34, 0x12] = .ok (.moff 0x1234) [] ∧
  decode .lOff0 [] = .ok .blkend []

/-- Every well-formed instruction is read back from its encoding, whatever follows it; EOF and BLKEND, which
the end of the stream selects, when nothing follows. -/
def Obligations.DecodeOfEncodeIsTheInstruction : Prop := ∀ (i : Instr) (rest : List Byte),
  i.wellFormed = true → (i.isEndOfStream = true → rest = []) →
    decode i.startPhase (encode i ++ rest) = .ok i rest

/-- The other direction: what the decoder reads where an element starts is well formed, belongs to that phase,
and its encoding is exactly the bytes it took. -/
def Obligations.EncodeOfDecodeIsTheBytes : Prop :=
  ∀ (p : Phase) (bytes : List Byte) (i : Instr) (rest : List Byte),
    p.startsElement = true → decode p bytes = .ok i rest →
      i.wellFormed = true ∧ i.startPhase = p ∧ bytes = encode i ++ rest

/-- From the phase an element starts in, with its bytes at the cursor, one step takes each byte but the last and
keeps it in its register, OUT, DBUF and TRACE untouched, and the step at the last byte is `exec` of the
instruction. That the bytes before the last are only kept, and that the instruction runs at the last one, is the
model's choice (log 4); 30_encoding.md section 5 gives the length of each element and 00_scope.md section 5 the
one item a step. -/
def Obligations.ElementRunsAtItsLastByte : Prop := ∀ (s : State) (i : Instr),
  i.wellFormed = true → s.phase = i.startPhase → encode i ≠ [] →
  encode i <+: s.inp.drop s.ipos →
    ∃ t, core.run ((encode i).length - 1) s = .next t ∧ step t = exec i t ∧
      t.latched = (encode i).dropLast ∧ t.ipos = s.ipos + ((encode i).length - 1) ∧
      t.out = s.out ∧ t.dbuf = s.dbuf ∧ t.trace = s.trace

/-- 20_memory.md section 7: the `first` of a decoded header is 0 to 65534 for a normal segment and 1 to 65534
for a compressed one (an inference of the spec). -/
def Obligations.DecodedHeaderHasFirstInRange : Prop := ∀ (bytes rest : List Byte),
  (∀ first last, decode .pFirst0 bytes = .ok (.segn first last) rest → first.toNat ≤ 65534) ∧
  (∀ first last ctype, decode .pFirst0 bytes = .ok (.segc first last ctype) rest →
    1 ≤ first.toNat ∧ first.toNat ≤ 65534)

/-! ### Arithmetic -/

/-- R68, R101 and R240: assembling, splitting, the payload length and the recomputed `last`. -/
def Obligations.FieldArithmeticIsExact : Prop :=
  (∀ lo hi : Byte, (u16 lo hi).toNat = lo.toNat + 256 * hi.toNat) ∧
  (∀ v : Half, (lo8 v).toNat = v.toNat % 256 ∧ (hi8 v).toNat = v.toNat / 256) ∧
  (∀ first last : Half, first.toNat ≤ last.toNat →
    (payloadLength first last).toNat = last.toNat - first.toNat + 1) ∧
  (∀ (first : Half) (n : Nat), 1 ≤ first.toNat →
    (recomputedLast first n).toNat = (first.toNat + n - 1) % 65536)

/-- 42_emit.md, the header that describes its data: for `first >= 1` the emitted header is a normal one that
declares N bytes exactly when `1 <= N` and `first + N - 1 <= 65535` (an inference of the spec, R202). -/
def Obligations.EmittedHeaderDescribesTheData : Prop := ∀ (first : Half) (n : Nat),
  1 ≤ first.toNat →
    ((first.toNat ≤ (recomputedLast first n).toNat ∧
      (payloadLength first (recomputedLast first n)).toNat = n) ↔
      (1 ≤ n ∧ first.toNat + n - 1 ≤ 65535))

/-! ### DBUF -/

/-- R65 and R66: the append reads back at the old N, every other address reads as before, N grows by one, and the
canonical form stays; an address at or above N holds nothing, which is the model's reading of R65 (log 11). -/
def Obligations.AppendReadsBackAndKeepsTheRest : Prop := ∀ (m : Memory) (v : Byte), m.wf →
  (m.append v).read m.size = some v ∧
  (∀ a, a ≠ m.size → (m.append v).read a = m.read a) ∧
  (m.append v).size = m.size + 1 ∧ (m.append v).wf ∧
  (∀ a, m.read a = none ↔ m.size ≤ a)

/-- The memory frame of every instruction: LIT and MATCH store at N and nowhere else, SEGC empties DBUF, and
every other instruction leaves every byte of DBUF, and N, as it was. -/
def Obligations.OnlyLitMatchAndSegcWriteDbuf : Prop := ∀ (i : Instr) (s t : State),
  exec i s = .next t →
    (match i with
    | .lit _ | .matchCopy => ∀ a, a ≠ s.n → t.dbuf.read a = s.dbuf.read a
    | .segc _ _ _ => t.n = 0 ∧ ∀ a, t.dbuf.read a = none
    | _ => t.n = s.n ∧ ∀ a, t.dbuf.read a = s.dbuf.read a)

/-! ### Registers and streams -/

/-- The register frame of every instruction: which instruction may write which register, OUT, TRACE and ERR.
M0, FLO, LLO and OLO are written by the fetch alone, which is the model's split of a step (log 4). -/
def Obligations.InstructionsWriteOnlyTheirRegisters : Prop := ∀ (i : Instr) (s t : State),
  exec i s = .next t →
    t.cfg = s.cfg ∧ t.inp = s.inp ∧ t.m0 = s.m0 ∧ t.flo = s.flo ∧ t.llo = s.llo ∧ t.olo = s.olo ∧
    (t.fhi = s.fhi ∨ i = .dummy) ∧
    (t.lhi = s.lhi ∨ ∃ a b, i = .segn a b) ∧
    (t.rem = s.rem ∨ (∃ a b, i = .segn a b) ∨ ∃ p, i = .payload p) ∧
    (t.ctype = s.ctype ∨ ∃ a b c, i = .segc a b c) ∧
    (t.token = s.token ∨ ∃ l m, i = .token l m) ∧
    (t.litlen = s.litlen ∨ (∃ l m, i = .token l m) ∨ i = .lextC ∨ (∃ e, i = .lextE e) ∨
      ∃ v, i = .lit v) ∧
    (t.offs = s.offs ∨ ∃ d, i = .moff d) ∧
    (t.mlen = s.mlen ∨ (∃ d, i = .moff d) ∨ i = .mextC ∨ (∃ e, i = .mextE e) ∨ i = .matchCopy) ∧
    (t.eidx = s.eidx ∨ i = .emith ∨ i = .emitd) ∧
    (t.out = s.out ∨ i = .fhdr ∨ (∃ a b, i = .segn a b) ∨ (∃ p, i = .payload p) ∨ i = .emith ∨
      i = .emitd) ∧
    (t.trace = s.trace ∨ (∃ p, i = .payload p) ∨ i = .emith ∨ i = .emitd) ∧
    (t.err = s.err ∨ (t.phase = .fault ∧ ((∃ v, i = .lit v) ∨ (∃ d, i = .moff d) ∨ i = .matchCopy)))

/-- The "written in" column of R25, and R34 for DBUF: a step writes a register only in the phases listed. -/
def Obligations.RegistersAreWrittenOnlyInTheirPhases : Prop := ∀ s t : State, step s = .next t →
  (t.m0 = s.m0 ∨ s.phase = .pMagic0) ∧
  (t.flo = s.flo ∨ s.phase = .pFirst0) ∧
  (t.fhi = s.fhi ∨ s.phase = .pFirst1) ∧
  (t.llo = s.llo ∨ s.phase = .pLast0) ∧
  (t.lhi = s.lhi ∨ s.phase = .pLast1) ∧
  (t.rem = s.rem ∨ s.phase = .pLast1 ∨ s.phase = .pCopy) ∧
  (t.ctype = s.ctype ∨ s.phase = .pCtype) ∧
  (t.token = s.token ∨ s.phase = .lToken) ∧
  (t.litlen = s.litlen ∨ s.phase = .lToken ∨ s.phase = .lLitext ∨ s.phase = .lLit) ∧
  (t.olo = s.olo ∨ s.phase = .lOff0) ∧
  (t.offs = s.offs ∨ s.phase = .lOff1) ∧
  (t.mlen = s.mlen ∨ s.phase = .lOff1 ∨ s.phase = .lMext ∨ s.phase = .lMatch) ∧
  (t.eidx = s.eidx ∨ s.phase = .eHdr ∨ s.phase = .eData) ∧
  (t.dbuf = s.dbuf ∨ s.phase = .pCtype ∨ s.phase = .lLit ∨ s.phase = .lMatch)

/-- R36, R61, R63, R64 and R298: the input and the parameters never change, the cursor moves by one and only over
a byte, the end of the stream is sticky, and what has been written to OUT is never taken back. -/
def Obligations.StreamsOnlyMoveForward : Prop := ∀ s t : State, step s = .next t →
  t.inp = s.inp ∧ t.cfg = s.cfg ∧ s.out <+: t.out ∧ s.trace <+: t.trace ∧
  (t.ipos = s.ipos ∨ (t.ipos = s.ipos + 1 ∧ s.ipos < s.inp.length)) ∧
  (s.atEos = true ↔ s.item = .eos) ∧ (s.atEos = true → t.atEos = true ∧ t.ipos = s.ipos)

/-- 42_emit.md and 60_exceptions.md section 2: from the compression-type byte to the end of its block nothing
of a compressed segment is written to OUT, an error included. -/
def Obligations.NothingIsWrittenBeforeTheBlockEnds : Prop := ∀ s t : State,
  s.phase.isDecoder = true ∨ s.phase = .pCtype → step s = .next t →
    t.out = s.out ∧ t.trace = s.trace

/-- R270: a step appends a trace record exactly when it copies the last payload byte (row 18) or writes the
last byte of a re-framed segment (rows 44 and 47), and the record is the one R270 names. -/
def Obligations.TraceRecordsCompletedSegments : Prop := ∀ s t : State, step s = .next t →
  t.trace = s.trace ++
    (match s.phase, s.item with
    | .pCopy, .byte _ => if s.rem.toNat = 1 then [.normal s.first s.last] else []
    | .eHdr, _ =>
      if s.n = 0 then [.compressed s.first (recomputedLast s.first s.n) s.ctype s.n] else []
    | .eData, _ =>
      if s.eidx + 1 = s.n then [.compressed s.first (recomputedLast s.first s.n) s.ctype s.n] else []
    | _, _ => [])

/-- The "read in" column of R25 and R28: two states that agree except on registers no later step reads before
writing them step alike, to two such states or to the same stop of the model (log 6). -/
def Obligations.DeadRegistersDoNotMatter : Prop := ∀ s s' : State, LiveAgree s s' →
  (∀ t, step s = .next t → ∃ t', step s' = .next t' ∧ LiveAgree t t') ∧
  (∀ f, step s = .fault f → step s' = .fault f)

/-- 10_state.md section 3 (R27, an inference of the spec): whatever the data registers hold at reset, a run has
the same PHASE, ERR, cursor, OUT and TRACE. It is why the zeros of log 1 cannot be observed there. -/
def Obligations.ResetRegisterValuesDoNotMatter : Prop :=
  ∀ (s : State) (k : Nat), s.phase = .pMagic0 → s.err = 0 → s.ipos = 0 → s.out = [] → s.trace = [] →
    (∀ t, core.run k s = .next t →
      ∃ t', core.run k (State.load s.cfg s.inp) = .next t' ∧ t'.phase = t.phase ∧ t'.err = t.err ∧
        t'.ipos = t.ipos ∧ t'.out = t.out ∧ t'.trace = t.trace) ∧
    (∀ f, core.run k s = .fault f → core.run k (State.load s.cfg s.inp) = .fault f)

/-! ### The whole machine -/

/-- R220: wherever a row of the transition table applies, a step is that row, and every step is a row. N is at
most a finite DEC_CAP, as in every state a run reaches (R33; `Inv`). -/
def Obligations.StepIsTheTransitionTable : Prop := ∀ s : State,
  (∀ c, s.cfg.decCap = some c → s.n ≤ c) →
    (∀ k t, tableRow s = some (k, t) → step s = .next t) ∧
    (∀ t, step s = .next t → ∃ k, tableRow s = some (k, t))

/-- The invariant holds at the start of every run, for every input and every parameter. -/
def Obligations.RunsStartInTheInvariant : Prop :=
  (∀ (cfg : Config) (fresh : List Byte), Inv (State.load cfg fresh)) ∧ Inv State.reset

/-- Every step keeps the invariant. -/
def Obligations.StepKeepsTheInvariant : Prop := ∀ s t : State, Inv s → step s = .next t → Inv t

/-- 43_control_and_arithmetic.md section 1 (R221, an inference of the spec): under the invariant a row applies
and a step exists in every phase but DONE and FAULT; in particular no run meets a fault of the model. -/
def Obligations.StepExistsUntilTheStop : Prop := ∀ s : State,
  Inv s → s.phase ≠ .done → s.phase ≠ .fault →
    ∃ k t, tableRow s = some (k, t) ∧ step s = .next t

/-- 43_control_and_arithmetic.md section 1 (R222, an inference of the spec): every step consumes a byte, writes
a byte, counts MLEN down or enters DONE, FAULT or E_HDR. -/
def Obligations.EveryStepMakesProgress : Prop := ∀ s t : State, step s = .next t →
  t.ipos = s.ipos + 1 ∨ s.opos < t.opos ∨ t.mlen + 1 = s.mlen ∨
  t.phase = .done ∨ t.phase = .fault ∨ t.phase = .eHdr

/-- 43_control_and_arithmetic.md section 1 (R222, an inference of the spec): every run reaches DONE or FAULT. -/
def Obligations.EveryRunStops : Prop := ∀ s : State, Inv s →
  ∃ k t, core.run k s = .next t ∧ (t.phase = .done ∨ t.phase = .fault)

/-- 43_control_and_arithmetic.md section 2 (R231, an inference of the spec): for every input and every DEC_CAP
the run of the step machine from reset stops with exactly what the reference function of R230 returns.
TERM_RULE is EOS_AT_OFFSET (decision D1, log 9). -/
def Obligations.StepMachineAgreesWithReference : Prop := ∀ (cap : Option Nat) (input : List Byte),
  ∃ k t, core.run k (State.load ⟨cap, .eosAtOffset⟩ input) = .next t ∧
    (t.phase = .done ∨ t.phase = .fault) ∧ t.matchesResult (refRun cap input)

/-- 70_reset_and_hazards.md section 2: at a clean stop the whole input is consumed, ERR is 0, and both streams
begin with the file header; at a fault stop ERR is an error code. -/
def Obligations.StopsMeanWhatTheySay : Prop :=
  ∀ (cfg : Config) (input : List Byte) (k : Nat) (t : State),
    core.run k (State.load cfg input) = .next t →
      (t.status = .done →
        t.ipos = input.length ∧ t.err = 0 ∧ startsWithMagic input ∧ startsWithMagic t.out) ∧
      (t.status = .fault → 1 ≤ t.err.toNat ∧ t.err.toNat ≤ 6)

/-- 40_parser.md, property (a) of R137 (an inference of the spec): at a stop OUT begins FF FF exactly if the
input does, and otherwise OUT is empty. -/
def Obligations.FileHeaderIsPreserved : Prop :=
  ∀ (cfg : Config) (input : List Byte) (k : Nat) (t : State),
    core.run k (State.load cfg input) = .next t → t.status ≠ .run →
      (startsWithMagic t.out ↔ startsWithMagic input) ∧ (¬ startsWithMagic input → t.out = [])

/-- 40_parser.md, properties (b) and (c) of R137 (inferences of the spec): a stream of dummy headers and normal
segments is copied to OUT byte for byte less its dummy headers. -/
def Obligations.PlainStreamsAreCopiedWithoutDummies : Prop :=
  ∀ (cfg : Config) (records : List PlainRecord), records.all PlainRecord.wellFormed = true →
    ∃ k t,
      core.run k (State.load cfg (assemble (.fhdr :: records.flatMap PlainRecord.elements))) =
        .next t ∧
      t.phase = .done ∧ t.out = assemble (.fhdr :: records.flatMap PlainRecord.kept)

/-! ### The decoder at length -/

/-- 41_lz4_decoder.md (R165, an inference of the spec): the extension bytes of a length, taken one step each,
leave that length in LITLEN, and four more than it in MLEN. -/
def Obligations.ExtensionBytesGiveTheLength : Prop := ∀ (s : State) (v : Nat), 15 ≤ v →
  extensionBytes v <+: s.inp.drop s.ipos →
    (s.phase = .lLitext → s.litlen = 15 →
      core.run (extensionBytes v).length s =
        .next { s with
          ipos := s.ipos + (extensionBytes v).length, litlen := v, phase := .lLit }) ∧
    (s.phase = .lMext → s.mlen = 19 →
      core.run (extensionBytes v).length s =
        .next { s with
          ipos := s.ipos + (extensionBytes v).length, mlen := 4 + v, phase := .lMatch })

/-- 41_lz4_decoder.md (R172, an inference of the spec): a whole match of `m` bytes at offset `d` appends the
last `d` bytes of DBUF repeated cyclically and cut to `m` bytes, where there is room for them. -/
def Obligations.WholeMatchRepeatsTheLastBytes : Prop := ∀ s : State,
  s.phase = .lMatch → s.dbuf.wf → 1 ≤ s.mlen → 1 ≤ s.offs.toNat → s.offs.toNat ≤ s.n →
  (∀ c, s.cfg.decCap = some c → s.n + s.mlen ≤ c) →
    ∃ (t : State) (copied : List Byte), core.run s.mlen s = .next t ∧
      t = { s with dbuf := t.dbuf, mlen := 0, phase := .lToken } ∧ t.dbuf.wf ∧
      t.dbuf.bytes = s.dbuf.bytes ++ copied ∧ copied.length = s.mlen ∧
      (∀ j, j < s.mlen →
        copied[j]? = s.dbuf.bytes[s.n - s.offs.toNat + j % s.offs.toNat]?)

/-- 42_emit.md (R204, an inference of the spec): from the start of a block that is all the rest of the input
and decodes to `data` by the reference decoder, the CORE appends to OUT the recomputed header and exactly
`data`. The premise on what follows the block is decision D1 (log 9). -/
def Obligations.DecodedBlockIsReframed : Prop := ∀ (s : State) (data : List Byte),
  s.phase = .lToken → s.dbuf = ⟨[]⟩ → s.ipos ≤ s.inp.length →
  refDecode s.cfg.decCap (s.inp.drop s.ipos) = .going data [] → 1 ≤ data.length →
  1 ≤ s.first.toNat → s.first.toNat + data.length - 1 ≤ 65535 →
    ∃ k t, core.run k s = .next t ∧ t.phase = .pFirst0 ∧ t.ipos = s.inp.length ∧
      t.out = s.out ++
        encode (.segn s.first (BitVec.ofNat 16 (s.first.toNat + data.length - 1))) ++ data

/-- 42_emit.md (R204, an inference of the spec): the round trip through the encoding of `data` as literals
alone, the notation FINAL of R105, for every `data` whose segment fits. TERM_RULE is EOS_AT_OFFSET (decision
D1, log 9). -/
def Obligations.LiteralBlockRoundTrips : Prop :=
  ∀ (first last : Half) (ctype : Byte) (data : List Byte),
    last.toNat < first.toNat → first ≠ 0xFFFF → 1 ≤ data.length →
    first.toNat + data.length - 1 ≤ 65535 →
      ∃ k t,
        core.run k (State.load Config.default
          (assemble (.fhdr :: .segc first last ctype :: finalElements data))) = .next t ∧
        t.phase = .done ∧
        t.out = assemble
          (.fhdr :: normalSegment first (BitVec.ofNat 16 (first.toNat + data.length - 1)) data)

/-- 43_control_and_arithmetic.md section 3 (R241, an inference of the spec): with a finite DEC_CAP, counters
that saturate at `DEC_CAP + 1` give the same run, stops of the model included (log 6). -/
def Obligations.SaturatedCountersGiveTheSameRun : Prop :=
  ∀ (c : Nat) (rule : TermRule) (input : List Byte) (k : Nat),
    (∀ t, core.run k (State.load ⟨some c, rule⟩ input) = .next t →
      ∃ t', saturatedRun c k (State.load ⟨some c, rule⟩ input) = .next t' ∧
        t'.phase = t.phase ∧ t'.err = t.err ∧ t'.ipos = t.ipos ∧ t'.out = t.out ∧
        t'.trace = t.trace ∧ t'.dbuf = t.dbuf) ∧
    (∀ f, core.run k (State.load ⟨some c, rule⟩ input) = .fault f →
      saturatedRun c k (State.load ⟨some c, rule⟩ input) = .fault f)
end

