-- ==== Sys2Proof/Laws/Memory.lean ====
section
/-! SUPPORT. DBUF: every memory operation keeps the canonical form, and under it a read is an index into the
bytes (20_memory.md R65, R66). -/

namespace Sys2Proof.Machine

theorem Memory.empty_wf : Memory.empty.wf := rfl

@[simp] theorem Memory.empty_size : Memory.empty.size = 0 := rfl

@[simp] theorem Memory.empty_bytes : Memory.empty.bytes = [] := rfl

@[simp] theorem Memory.append_size (m : Memory) (v : Byte) : (m.append v).size = m.size + 1 := by
  simp [Memory.append, Memory.size]

@[simp] theorem Memory.append_bytes (m : Memory) (v : Byte) :
    (m.append v).bytes = m.bytes ++ [v] := by
  simp [Memory.append, Memory.bytes]

@[simp] theorem Memory.bytes_length (m : Memory) : m.bytes.length = m.size := by
  simp [Memory.bytes, Memory.size]

theorem Memory.append_wf {m : Memory} (h : m.wf) (v : Byte) : (m.append v).wf := by
  have h' : m.cells.map Prod.fst = List.range m.size := h
  show (m.cells ++ [(m.size, v)]).map Prod.fst = List.range (m.append v).size
  simp [h', List.range_succ]

/-- A lookup in pairs whose keys count up from `k` is an index into the values. -/
theorem lookup_of_counting_keys (cells : List Host.Cell) (k a : Nat)
    (h : cells.map Prod.fst = List.range' k cells.length) :
    cells.lookup (k + a) = (cells.map Prod.snd)[a]? := by
  induction cells generalizing k a with
  | nil => simp
  | cons c rest ih =>
    obtain ⟨key, b⟩ := c
    simp only [List.map_cons, List.length_cons, List.range'_succ, List.cons.injEq] at h
    obtain ⟨rfl, hr⟩ := h
    cases a with
    | zero => simp
    | succ a =>
      have hk : (key + (a + 1) == key) = false := by simp
      have := ih (key + 1) a hr
      rw [List.lookup_cons, hk]
      simpa [Nat.add_assoc, Nat.add_comm 1 a] using this

/-- Under the canonical form `MemRead` is an index into the bytes. -/
theorem Memory.read_eq_bytes {m : Memory} (h : m.wf) (a : Nat) : m.read a = m.bytes[a]? := by
  have keys : m.cells.map Prod.fst = List.range' 0 m.cells.length := by
    rw [← List.range_eq_range']
    exact h
  have := lookup_of_counting_keys m.cells 0 a keys
  simpa [Memory.read, Memory.bytes] using this

/-- Every address below N holds a byte. -/
theorem Memory.read_isSome {m : Memory} (h : m.wf) {a : Nat} (ha : a < m.size) :
    ∃ b, m.read a = some b := by
  rw [Memory.read_eq_bytes h]
  exact ⟨_, List.getElem?_eq_getElem (by simpa using ha)⟩

/-- No byte once written is changed by an append (R66), whatever the memory's form. -/
theorem Memory.append_read_of_some {m : Memory} {a : Nat} {b : Byte} (v : Byte)
    (h : m.read a = some b) : (m.append v).read a = some b := by
  simp only [Memory.read, Memory.append] at *
  simp [List.lookup_append, h]

/-- An append changes no address but N, whatever the memory's form. -/
theorem Memory.append_read_of_ne (m : Memory) {a : Nat} (v : Byte) (h : a ≠ m.size) :
    (m.append v).read a = m.read a := by
  have : (a == m.size) = false := by simpa using h
  simp [Memory.read, Memory.append, List.lookup_append, List.lookup_cons, this]

end Sys2Proof.Machine
end

