-- ==== Sys2Proof/Laws/State.lean ====
section
/-! SUPPORT. The fields of the state under each operation of Machine/Ops.lean: one lemma per field per update, so
that no proof unfolds a record update. -/

namespace Sys2Proof.Machine

/-! ### taken -/

@[simp] theorem State.taken_cfg (s : State) :
    s.taken.cfg = s.cfg := rfl

@[simp] theorem State.taken_phase (s : State) :
    s.taken.phase = s.phase := rfl

@[simp] theorem State.taken_err (s : State) :
    s.taken.err = s.err := rfl

@[simp] theorem State.taken_m0 (s : State) :
    s.taken.m0 = s.m0 := rfl

@[simp] theorem State.taken_flo (s : State) :
    s.taken.flo = s.flo := rfl

@[simp] theorem State.taken_fhi (s : State) :
    s.taken.fhi = s.fhi := rfl

@[simp] theorem State.taken_llo (s : State) :
    s.taken.llo = s.llo := rfl

@[simp] theorem State.taken_lhi (s : State) :
    s.taken.lhi = s.lhi := rfl

@[simp] theorem State.taken_rem (s : State) :
    s.taken.rem = s.rem := rfl

@[simp] theorem State.taken_ctype (s : State) :
    s.taken.ctype = s.ctype := rfl

@[simp] theorem State.taken_token (s : State) :
    s.taken.token = s.token := rfl

@[simp] theorem State.taken_litlen (s : State) :
    s.taken.litlen = s.litlen := rfl

@[simp] theorem State.taken_olo (s : State) :
    s.taken.olo = s.olo := rfl

@[simp] theorem State.taken_offs (s : State) :
    s.taken.offs = s.offs := rfl

@[simp] theorem State.taken_mlen (s : State) :
    s.taken.mlen = s.mlen := rfl

@[simp] theorem State.taken_eidx (s : State) :
    s.taken.eidx = s.eidx := rfl

@[simp] theorem State.taken_dbuf (s : State) :
    s.taken.dbuf = s.dbuf := rfl

@[simp] theorem State.taken_inp (s : State) :
    s.taken.inp = s.inp := rfl

@[simp] theorem State.taken_ipos (s : State) :
    s.taken.ipos = if s.ipos < s.inp.length then s.ipos + 1 else s.ipos := rfl

@[simp] theorem State.taken_out (s : State) :
    s.taken.out = s.out := rfl

@[simp] theorem State.taken_trace (s : State) :
    s.taken.trace = s.trace := rfl

/-! ### outWrite -/

@[simp] theorem State.outWrite_cfg (s : State) (b : Byte) :
    (s.outWrite b).cfg = s.cfg := rfl

@[simp] theorem State.outWrite_phase (s : State) (b : Byte) :
    (s.outWrite b).phase = s.phase := rfl

@[simp] theorem State.outWrite_err (s : State) (b : Byte) :
    (s.outWrite b).err = s.err := rfl

@[simp] theorem State.outWrite_m0 (s : State) (b : Byte) :
    (s.outWrite b).m0 = s.m0 := rfl

@[simp] theorem State.outWrite_flo (s : State) (b : Byte) :
    (s.outWrite b).flo = s.flo := rfl

@[simp] theorem State.outWrite_fhi (s : State) (b : Byte) :
    (s.outWrite b).fhi = s.fhi := rfl

@[simp] theorem State.outWrite_llo (s : State) (b : Byte) :
    (s.outWrite b).llo = s.llo := rfl

@[simp] theorem State.outWrite_lhi (s : State) (b : Byte) :
    (s.outWrite b).lhi = s.lhi := rfl

@[simp] theorem State.outWrite_rem (s : State) (b : Byte) :
    (s.outWrite b).rem = s.rem := rfl

@[simp] theorem State.outWrite_ctype (s : State) (b : Byte) :
    (s.outWrite b).ctype = s.ctype := rfl

@[simp] theorem State.outWrite_token (s : State) (b : Byte) :
    (s.outWrite b).token = s.token := rfl

@[simp] theorem State.outWrite_litlen (s : State) (b : Byte) :
    (s.outWrite b).litlen = s.litlen := rfl

@[simp] theorem State.outWrite_olo (s : State) (b : Byte) :
    (s.outWrite b).olo = s.olo := rfl

@[simp] theorem State.outWrite_offs (s : State) (b : Byte) :
    (s.outWrite b).offs = s.offs := rfl

@[simp] theorem State.outWrite_mlen (s : State) (b : Byte) :
    (s.outWrite b).mlen = s.mlen := rfl

@[simp] theorem State.outWrite_eidx (s : State) (b : Byte) :
    (s.outWrite b).eidx = s.eidx := rfl

@[simp] theorem State.outWrite_dbuf (s : State) (b : Byte) :
    (s.outWrite b).dbuf = s.dbuf := rfl

@[simp] theorem State.outWrite_inp (s : State) (b : Byte) :
    (s.outWrite b).inp = s.inp := rfl

@[simp] theorem State.outWrite_ipos (s : State) (b : Byte) :
    (s.outWrite b).ipos = s.ipos := rfl

@[simp] theorem State.outWrite_out (s : State) (b : Byte) :
    (s.outWrite b).out = s.out ++ [b] := rfl

@[simp] theorem State.outWrite_trace (s : State) (b : Byte) :
    (s.outWrite b).trace = s.trace := rfl

/-! ### outHeader -/

@[simp] theorem State.outHeader_cfg (s : State) (a b c d : Byte) :
    (s.outHeader a b c d).cfg = s.cfg := rfl

@[simp] theorem State.outHeader_phase (s : State) (a b c d : Byte) :
    (s.outHeader a b c d).phase = s.phase := rfl

@[simp] theorem State.outHeader_err (s : State) (a b c d : Byte) :
    (s.outHeader a b c d).err = s.err := rfl

@[simp] theorem State.outHeader_m0 (s : State) (a b c d : Byte) :
    (s.outHeader a b c d).m0 = s.m0 := rfl

@[simp] theorem State.outHeader_flo (s : State) (a b c d : Byte) :
    (s.outHeader a b c d).flo = s.flo := rfl

@[simp] theorem State.outHeader_fhi (s : State) (a b c d : Byte) :
    (s.outHeader a b c d).fhi = s.fhi := rfl

@[simp] theorem State.outHeader_llo (s : State) (a b c d : Byte) :
    (s.outHeader a b c d).llo = s.llo := rfl

@[simp] theorem State.outHeader_lhi (s : State) (a b c d : Byte) :
    (s.outHeader a b c d).lhi = s.lhi := rfl

@[simp] theorem State.outHeader_rem (s : State) (a b c d : Byte) :
    (s.outHeader a b c d).rem = s.rem := rfl

@[simp] theorem State.outHeader_ctype (s : State) (a b c d : Byte) :
    (s.outHeader a b c d).ctype = s.ctype := rfl

@[simp] theorem State.outHeader_token (s : State) (a b c d : Byte) :
    (s.outHeader a b c d).token = s.token := rfl

@[simp] theorem State.outHeader_litlen (s : State) (a b c d : Byte) :
    (s.outHeader a b c d).litlen = s.litlen := rfl

@[simp] theorem State.outHeader_olo (s : State) (a b c d : Byte) :
    (s.outHeader a b c d).olo = s.olo := rfl

@[simp] theorem State.outHeader_offs (s : State) (a b c d : Byte) :
    (s.outHeader a b c d).offs = s.offs := rfl

@[simp] theorem State.outHeader_mlen (s : State) (a b c d : Byte) :
    (s.outHeader a b c d).mlen = s.mlen := rfl

@[simp] theorem State.outHeader_eidx (s : State) (a b c d : Byte) :
    (s.outHeader a b c d).eidx = s.eidx := rfl

@[simp] theorem State.outHeader_dbuf (s : State) (a b c d : Byte) :
    (s.outHeader a b c d).dbuf = s.dbuf := rfl

@[simp] theorem State.outHeader_inp (s : State) (a b c d : Byte) :
    (s.outHeader a b c d).inp = s.inp := rfl

@[simp] theorem State.outHeader_ipos (s : State) (a b c d : Byte) :
    (s.outHeader a b c d).ipos = s.ipos := rfl

@[simp] theorem State.outHeader_out (s : State) (a b c d : Byte) :
    (s.outHeader a b c d).out = s.out ++ [a, b, c, d] := by
  simp [State.outHeader, State.outWrite]

@[simp] theorem State.outHeader_trace (s : State) (a b c d : Byte) :
    (s.outHeader a b c d).trace = s.trace := rfl

/-! ### dbufAppend -/

@[simp] theorem State.dbufAppend_cfg (s : State) (v : Byte) :
    (s.dbufAppend v).cfg = s.cfg := rfl

@[simp] theorem State.dbufAppend_phase (s : State) (v : Byte) :
    (s.dbufAppend v).phase = s.phase := rfl

@[simp] theorem State.dbufAppend_err (s : State) (v : Byte) :
    (s.dbufAppend v).err = s.err := rfl

@[simp] theorem State.dbufAppend_m0 (s : State) (v : Byte) :
    (s.dbufAppend v).m0 = s.m0 := rfl

@[simp] theorem State.dbufAppend_flo (s : State) (v : Byte) :
    (s.dbufAppend v).flo = s.flo := rfl

@[simp] theorem State.dbufAppend_fhi (s : State) (v : Byte) :
    (s.dbufAppend v).fhi = s.fhi := rfl

@[simp] theorem State.dbufAppend_llo (s : State) (v : Byte) :
    (s.dbufAppend v).llo = s.llo := rfl

@[simp] theorem State.dbufAppend_lhi (s : State) (v : Byte) :
    (s.dbufAppend v).lhi = s.lhi := rfl

@[simp] theorem State.dbufAppend_rem (s : State) (v : Byte) :
    (s.dbufAppend v).rem = s.rem := rfl

@[simp] theorem State.dbufAppend_ctype (s : State) (v : Byte) :
    (s.dbufAppend v).ctype = s.ctype := rfl

@[simp] theorem State.dbufAppend_token (s : State) (v : Byte) :
    (s.dbufAppend v).token = s.token := rfl

@[simp] theorem State.dbufAppend_litlen (s : State) (v : Byte) :
    (s.dbufAppend v).litlen = s.litlen := rfl

@[simp] theorem State.dbufAppend_olo (s : State) (v : Byte) :
    (s.dbufAppend v).olo = s.olo := rfl

@[simp] theorem State.dbufAppend_offs (s : State) (v : Byte) :
    (s.dbufAppend v).offs = s.offs := rfl

@[simp] theorem State.dbufAppend_mlen (s : State) (v : Byte) :
    (s.dbufAppend v).mlen = s.mlen := rfl

@[simp] theorem State.dbufAppend_eidx (s : State) (v : Byte) :
    (s.dbufAppend v).eidx = s.eidx := rfl

@[simp] theorem State.dbufAppend_dbuf (s : State) (v : Byte) :
    (s.dbufAppend v).dbuf = s.dbuf.append v := rfl

@[simp] theorem State.dbufAppend_inp (s : State) (v : Byte) :
    (s.dbufAppend v).inp = s.inp := rfl

@[simp] theorem State.dbufAppend_ipos (s : State) (v : Byte) :
    (s.dbufAppend v).ipos = s.ipos := rfl

@[simp] theorem State.dbufAppend_out (s : State) (v : Byte) :
    (s.dbufAppend v).out = s.out := rfl

@[simp] theorem State.dbufAppend_trace (s : State) (v : Byte) :
    (s.dbufAppend v).trace = s.trace := rfl

/-! ### goto -/

@[simp] theorem State.goto_cfg (s : State) (p : Phase) :
    (s.goto p).cfg = s.cfg := rfl

@[simp] theorem State.goto_phase (s : State) (p : Phase) :
    (s.goto p).phase = p := rfl

@[simp] theorem State.goto_err (s : State) (p : Phase) :
    (s.goto p).err = s.err := rfl

@[simp] theorem State.goto_m0 (s : State) (p : Phase) :
    (s.goto p).m0 = s.m0 := rfl

@[simp] theorem State.goto_flo (s : State) (p : Phase) :
    (s.goto p).flo = s.flo := rfl

@[simp] theorem State.goto_fhi (s : State) (p : Phase) :
    (s.goto p).fhi = s.fhi := rfl

@[simp] theorem State.goto_llo (s : State) (p : Phase) :
    (s.goto p).llo = s.llo := rfl

@[simp] theorem State.goto_lhi (s : State) (p : Phase) :
    (s.goto p).lhi = s.lhi := rfl

@[simp] theorem State.goto_rem (s : State) (p : Phase) :
    (s.goto p).rem = s.rem := rfl

@[simp] theorem State.goto_ctype (s : State) (p : Phase) :
    (s.goto p).ctype = s.ctype := rfl

@[simp] theorem State.goto_token (s : State) (p : Phase) :
    (s.goto p).token = s.token := rfl

@[simp] theorem State.goto_litlen (s : State) (p : Phase) :
    (s.goto p).litlen = s.litlen := rfl

@[simp] theorem State.goto_olo (s : State) (p : Phase) :
    (s.goto p).olo = s.olo := rfl

@[simp] theorem State.goto_offs (s : State) (p : Phase) :
    (s.goto p).offs = s.offs := rfl

@[simp] theorem State.goto_mlen (s : State) (p : Phase) :
    (s.goto p).mlen = s.mlen := rfl

@[simp] theorem State.goto_eidx (s : State) (p : Phase) :
    (s.goto p).eidx = s.eidx := rfl

@[simp] theorem State.goto_dbuf (s : State) (p : Phase) :
    (s.goto p).dbuf = s.dbuf := rfl

@[simp] theorem State.goto_inp (s : State) (p : Phase) :
    (s.goto p).inp = s.inp := rfl

@[simp] theorem State.goto_ipos (s : State) (p : Phase) :
    (s.goto p).ipos = s.ipos := rfl

@[simp] theorem State.goto_out (s : State) (p : Phase) :
    (s.goto p).out = s.out := rfl

@[simp] theorem State.goto_trace (s : State) (p : Phase) :
    (s.goto p).trace = s.trace := rfl

/-! ### record -/

@[simp] theorem State.record_cfg (s : State) (r : TraceRecord) :
    (s.record r).cfg = s.cfg := rfl

@[simp] theorem State.record_phase (s : State) (r : TraceRecord) :
    (s.record r).phase = s.phase := rfl

@[simp] theorem State.record_err (s : State) (r : TraceRecord) :
    (s.record r).err = s.err := rfl

@[simp] theorem State.record_m0 (s : State) (r : TraceRecord) :
    (s.record r).m0 = s.m0 := rfl

@[simp] theorem State.record_flo (s : State) (r : TraceRecord) :
    (s.record r).flo = s.flo := rfl

@[simp] theorem State.record_fhi (s : State) (r : TraceRecord) :
    (s.record r).fhi = s.fhi := rfl

@[simp] theorem State.record_llo (s : State) (r : TraceRecord) :
    (s.record r).llo = s.llo := rfl

@[simp] theorem State.record_lhi (s : State) (r : TraceRecord) :
    (s.record r).lhi = s.lhi := rfl

@[simp] theorem State.record_rem (s : State) (r : TraceRecord) :
    (s.record r).rem = s.rem := rfl

@[simp] theorem State.record_ctype (s : State) (r : TraceRecord) :
    (s.record r).ctype = s.ctype := rfl

@[simp] theorem State.record_token (s : State) (r : TraceRecord) :
    (s.record r).token = s.token := rfl

@[simp] theorem State.record_litlen (s : State) (r : TraceRecord) :
    (s.record r).litlen = s.litlen := rfl

@[simp] theorem State.record_olo (s : State) (r : TraceRecord) :
    (s.record r).olo = s.olo := rfl

@[simp] theorem State.record_offs (s : State) (r : TraceRecord) :
    (s.record r).offs = s.offs := rfl

@[simp] theorem State.record_mlen (s : State) (r : TraceRecord) :
    (s.record r).mlen = s.mlen := rfl

@[simp] theorem State.record_eidx (s : State) (r : TraceRecord) :
    (s.record r).eidx = s.eidx := rfl

@[simp] theorem State.record_dbuf (s : State) (r : TraceRecord) :
    (s.record r).dbuf = s.dbuf := rfl

@[simp] theorem State.record_inp (s : State) (r : TraceRecord) :
    (s.record r).inp = s.inp := rfl

@[simp] theorem State.record_ipos (s : State) (r : TraceRecord) :
    (s.record r).ipos = s.ipos := rfl

@[simp] theorem State.record_out (s : State) (r : TraceRecord) :
    (s.record r).out = s.out := rfl

@[simp] theorem State.record_trace (s : State) (r : TraceRecord) :
    (s.record r).trace = s.trace ++ [r] := rfl

/-! ### raise -/

@[simp] theorem State.raise_cfg (s : State) (e : ErrKind) :
    (s.raise e).cfg = s.cfg := rfl

@[simp] theorem State.raise_phase (s : State) (e : ErrKind) :
    (s.raise e).phase = .fault := rfl

@[simp] theorem State.raise_err (s : State) (e : ErrKind) :
    (s.raise e).err = e.code := rfl

@[simp] theorem State.raise_m0 (s : State) (e : ErrKind) :
    (s.raise e).m0 = s.m0 := rfl

@[simp] theorem State.raise_flo (s : State) (e : ErrKind) :
    (s.raise e).flo = s.flo := rfl

@[simp] theorem State.raise_fhi (s : State) (e : ErrKind) :
    (s.raise e).fhi = s.fhi := rfl

@[simp] theorem State.raise_llo (s : State) (e : ErrKind) :
    (s.raise e).llo = s.llo := rfl

@[simp] theorem State.raise_lhi (s : State) (e : ErrKind) :
    (s.raise e).lhi = s.lhi := rfl

@[simp] theorem State.raise_rem (s : State) (e : ErrKind) :
    (s.raise e).rem = s.rem := rfl

@[simp] theorem State.raise_ctype (s : State) (e : ErrKind) :
    (s.raise e).ctype = s.ctype := rfl

@[simp] theorem State.raise_token (s : State) (e : ErrKind) :
    (s.raise e).token = s.token := rfl

@[simp] theorem State.raise_litlen (s : State) (e : ErrKind) :
    (s.raise e).litlen = s.litlen := rfl

@[simp] theorem State.raise_olo (s : State) (e : ErrKind) :
    (s.raise e).olo = s.olo := rfl

@[simp] theorem State.raise_offs (s : State) (e : ErrKind) :
    (s.raise e).offs = s.offs := rfl

@[simp] theorem State.raise_mlen (s : State) (e : ErrKind) :
    (s.raise e).mlen = s.mlen := rfl

@[simp] theorem State.raise_eidx (s : State) (e : ErrKind) :
    (s.raise e).eidx = s.eidx := rfl

@[simp] theorem State.raise_dbuf (s : State) (e : ErrKind) :
    (s.raise e).dbuf = s.dbuf := rfl

@[simp] theorem State.raise_inp (s : State) (e : ErrKind) :
    (s.raise e).inp = s.inp := rfl

@[simp] theorem State.raise_ipos (s : State) (e : ErrKind) :
    (s.raise e).ipos = s.ipos := rfl

@[simp] theorem State.raise_out (s : State) (e : ErrKind) :
    (s.raise e).out = s.out := rfl

@[simp] theorem State.raise_trace (s : State) (e : ErrKind) :
    (s.raise e).trace = s.trace := rfl

/-! ### assertReset -/

@[simp] theorem State.assertReset_cfg (s : State) (fresh : List Byte) :
    (s.assertReset fresh).cfg = s.cfg := rfl

@[simp] theorem State.assertReset_phase (s : State) (fresh : List Byte) :
    (s.assertReset fresh).phase = .pMagic0 := rfl

@[simp] theorem State.assertReset_err (s : State) (fresh : List Byte) :
    (s.assertReset fresh).err = 0 := rfl

@[simp] theorem State.assertReset_m0 (s : State) (fresh : List Byte) :
    (s.assertReset fresh).m0 = 0 := rfl

@[simp] theorem State.assertReset_flo (s : State) (fresh : List Byte) :
    (s.assertReset fresh).flo = 0 := rfl

@[simp] theorem State.assertReset_fhi (s : State) (fresh : List Byte) :
    (s.assertReset fresh).fhi = 0 := rfl

@[simp] theorem State.assertReset_llo (s : State) (fresh : List Byte) :
    (s.assertReset fresh).llo = 0 := rfl

@[simp] theorem State.assertReset_lhi (s : State) (fresh : List Byte) :
    (s.assertReset fresh).lhi = 0 := rfl

@[simp] theorem State.assertReset_rem (s : State) (fresh : List Byte) :
    (s.assertReset fresh).rem = 0 := rfl

@[simp] theorem State.assertReset_ctype (s : State) (fresh : List Byte) :
    (s.assertReset fresh).ctype = 0 := rfl

@[simp] theorem State.assertReset_token (s : State) (fresh : List Byte) :
    (s.assertReset fresh).token = 0 := rfl

@[simp] theorem State.assertReset_litlen (s : State) (fresh : List Byte) :
    (s.assertReset fresh).litlen = 0 := rfl

@[simp] theorem State.assertReset_olo (s : State) (fresh : List Byte) :
    (s.assertReset fresh).olo = 0 := rfl

@[simp] theorem State.assertReset_offs (s : State) (fresh : List Byte) :
    (s.assertReset fresh).offs = 0 := rfl

@[simp] theorem State.assertReset_mlen (s : State) (fresh : List Byte) :
    (s.assertReset fresh).mlen = 0 := rfl

@[simp] theorem State.assertReset_eidx (s : State) (fresh : List Byte) :
    (s.assertReset fresh).eidx = 0 := rfl

@[simp] theorem State.assertReset_dbuf (s : State) (fresh : List Byte) :
    (s.assertReset fresh).dbuf = Memory.empty := rfl

@[simp] theorem State.assertReset_inp (s : State) (fresh : List Byte) :
    (s.assertReset fresh).inp = fresh := rfl

@[simp] theorem State.assertReset_ipos (s : State) (fresh : List Byte) :
    (s.assertReset fresh).ipos = 0 := rfl

@[simp] theorem State.assertReset_out (s : State) (fresh : List Byte) :
    (s.assertReset fresh).out = [] := rfl

@[simp] theorem State.assertReset_trace (s : State) (fresh : List Byte) :
    (s.assertReset fresh).trace = [] := rfl

/-! ### load -/

@[simp] theorem State.load_cfg (cfg : Config) (fresh : List Byte) :
    (State.load cfg fresh).cfg = cfg := rfl

@[simp] theorem State.load_phase (cfg : Config) (fresh : List Byte) :
    (State.load cfg fresh).phase = .pMagic0 := rfl

@[simp] theorem State.load_err (cfg : Config) (fresh : List Byte) :
    (State.load cfg fresh).err = 0 := rfl

@[simp] theorem State.load_m0 (cfg : Config) (fresh : List Byte) :
    (State.load cfg fresh).m0 = 0 := rfl

@[simp] theorem State.load_flo (cfg : Config) (fresh : List Byte) :
    (State.load cfg fresh).flo = 0 := rfl

@[simp] theorem State.load_fhi (cfg : Config) (fresh : List Byte) :
    (State.load cfg fresh).fhi = 0 := rfl

@[simp] theorem State.load_llo (cfg : Config) (fresh : List Byte) :
    (State.load cfg fresh).llo = 0 := rfl

@[simp] theorem State.load_lhi (cfg : Config) (fresh : List Byte) :
    (State.load cfg fresh).lhi = 0 := rfl

@[simp] theorem State.load_rem (cfg : Config) (fresh : List Byte) :
    (State.load cfg fresh).rem = 0 := rfl

@[simp] theorem State.load_ctype (cfg : Config) (fresh : List Byte) :
    (State.load cfg fresh).ctype = 0 := rfl

@[simp] theorem State.load_token (cfg : Config) (fresh : List Byte) :
    (State.load cfg fresh).token = 0 := rfl

@[simp] theorem State.load_litlen (cfg : Config) (fresh : List Byte) :
    (State.load cfg fresh).litlen = 0 := rfl

@[simp] theorem State.load_olo (cfg : Config) (fresh : List Byte) :
    (State.load cfg fresh).olo = 0 := rfl

@[simp] theorem State.load_offs (cfg : Config) (fresh : List Byte) :
    (State.load cfg fresh).offs = 0 := rfl

@[simp] theorem State.load_mlen (cfg : Config) (fresh : List Byte) :
    (State.load cfg fresh).mlen = 0 := rfl

@[simp] theorem State.load_eidx (cfg : Config) (fresh : List Byte) :
    (State.load cfg fresh).eidx = 0 := rfl

@[simp] theorem State.load_dbuf (cfg : Config) (fresh : List Byte) :
    (State.load cfg fresh).dbuf = Memory.empty := rfl

@[simp] theorem State.load_inp (cfg : Config) (fresh : List Byte) :
    (State.load cfg fresh).inp = fresh := rfl

@[simp] theorem State.load_ipos (cfg : Config) (fresh : List Byte) :
    (State.load cfg fresh).ipos = 0 := rfl

@[simp] theorem State.load_out (cfg : Config) (fresh : List Byte) :
    (State.load cfg fresh).out = [] := rfl

@[simp] theorem State.load_trace (cfg : Config) (fresh : List Byte) :
    (State.load cfg fresh).trace = [] := rfl

end Sys2Proof.Machine
end

