-- ==== Sys2Proof/Laws/Ops.lean ====
section
/-! SUPPORT. What each shared operation can do: the input port, the operand forms, `latch` and `fetch`. -/

namespace Sys2Proof.Machine

/-! ### The input port (R61) -/

theorem State.item_byte_iff (s : State) (x : Byte) :
    s.item = .byte x ↔ s.inp[s.ipos]? = some x := by
  unfold State.item
  cases s.inp[s.ipos]? <;> simp

theorem State.item_eos_iff (s : State) : s.item = .eos ↔ s.inp.length ≤ s.ipos := by
  rw [← List.getElem?_eq_none_iff]
  unfold State.item
  cases s.inp[s.ipos]? <;> simp

/-- A byte is there exactly below the end of the input. -/
theorem State.lt_of_item_byte {s : State} {x : Byte} (h : s.item = .byte x) :
    s.ipos < s.inp.length := by
  rw [State.item_byte_iff] at h
  exact (List.getElem?_eq_some_iff.mp h).1

/-- `In()` that gives a byte consumes it. -/
theorem State.taken_of_byte {s : State} {x : Byte} (h : s.item = .byte x) :
    s.taken = { s with ipos := s.ipos + 1 } := by
  simp [State.taken, State.lt_of_item_byte h]

/-- `In()` that gives EOS changes nothing. -/
theorem State.taken_of_eos {s : State} (h : s.item = .eos) : s.taken = s := by
  rw [State.item_eos_iff] at h
  simp [State.taken, Nat.not_lt.mpr h]

/-- The next item depends on the input and the cursor alone. -/
theorem State.item_congr {s t : State} (hi : s.inp = t.inp) (hp : s.ipos = t.ipos) :
    s.item = t.item := by
  simp [State.item, hi, hp]

/-! ### The capacity test -/

theorem State.full_iff (s : State) : s.full = true ↔ ∃ c, s.cfg.decCap = some c ∧ c ≤ s.n := by
  unfold State.full
  cases s.cfg.decCap <;> simp

/-! ### Operand forms (R68, R101) -/

theorem u16_toNat (lo hi : Byte) : (u16 lo hi).toNat = lo.toNat + 256 * hi.toNat := by
  have := lo.isLt
  have := hi.isLt
  simp only [u16, BitVec.toNat_ofNat]
  omega

theorem lo8_toNat (v : Half) : (lo8 v).toNat = v.toNat % 256 := by
  simp [lo8]

theorem hi8_toNat (v : Half) : (hi8 v).toNat = v.toNat / 256 := by
  have := v.isLt
  simp only [hi8, BitVec.toNat_ofNat]
  omega

@[simp] theorem lo8_u16 (lo hi : Byte) : lo8 (u16 lo hi) = lo := by
  have := lo.isLt
  apply BitVec.eq_of_toNat_eq
  rw [lo8_toNat, u16_toNat]
  omega

@[simp] theorem hi8_u16 (lo hi : Byte) : hi8 (u16 lo hi) = hi := by
  have := lo.isLt
  apply BitVec.eq_of_toNat_eq
  rw [hi8_toNat, u16_toNat]
  omega

@[simp] theorem u16_lo8_hi8 (v : Half) : u16 (lo8 v) (hi8 v) = v := by
  apply BitVec.eq_of_toNat_eq
  rw [u16_toNat, lo8_toNat, hi8_toNat]
  omega

theorem highNibble_toNat (b : Byte) : (highNibble b).toNat = b.toNat / 16 := by
  have := b.isLt
  simp only [highNibble, BitVec.extractLsb'_toNat, Nat.shiftRight_eq_div_pow]
  omega

theorem lowNibble_toNat (b : Byte) : (lowNibble b).toNat = b.toNat % 16 := by
  simp [lowNibble, BitVec.extractLsb'_toNat]

theorem tokenByte_toNat (l m : Nibble) : (tokenByte l m).toNat = 16 * l.toNat + m.toNat := by
  have := l.isLt
  have := m.isLt
  simp only [tokenByte, BitVec.toNat_ofNat]
  omega

@[simp] theorem tokenByte_nibbles (b : Byte) : tokenByte (highNibble b) (lowNibble b) = b := by
  apply BitVec.eq_of_toNat_eq
  rw [tokenByte_toNat, highNibble_toNat, lowNibble_toNat]
  omega

@[simp] theorem highNibble_tokenByte (l m : Nibble) : highNibble (tokenByte l m) = l := by
  have := m.isLt
  apply BitVec.eq_of_toNat_eq
  rw [highNibble_toNat, tokenByte_toNat]
  omega

@[simp] theorem lowNibble_tokenByte (l m : Nibble) : lowNibble (tokenByte l m) = m := by
  have := m.isLt
  apply BitVec.eq_of_toNat_eq
  rw [lowNibble_toNat, tokenByte_toNat]
  omega

/-! ### Fetching -/

/-- A latched byte has been consumed and joins the bytes already taken; nothing else changes but its register
and PHASE. -/
theorem State.latch_some {s t : State} {x : Byte} (h : s.latch x = some t) :
    t.ipos = s.taken.ipos ∧ t.latched = s.latched ++ [x] ∧ t.out = s.out ∧ t.dbuf = s.dbuf ∧
      t.trace = s.trace ∧ t.err = s.err ∧ t.inp = s.inp ∧ t.cfg = s.cfg := by
  revert h
  unfold State.latch
  cases hp : s.phase <;> intro h <;> simp at h <;> subst h <;> simp [State.latched, hp]

/-- Fetching never finds an element unfinished in a phase that has no register for its byte. -/
theorem fetch_never_unlatched (s : State) : s.fetch ≠ .stopped .noLatch := by
  unfold State.fetch
  split
  · simp
  · cases hp : s.phase <;> cases hi : s.item <;>
      simp only [State.latched, State.latch, Item.toBytes, hp, List.nil_append, List.cons_append,
        List.append_nil, decode, decodeFileHeader, decodeHeader, decodeReal, decodeCompressed,
        decodePayload, decodeToken, decodeLitExt, decodeLit, decodeOffset, decodeMatchExt] <;>
      (repeat' split) <;> (try split at *) <;> simp_all

end Sys2Proof.Machine
end

