-- ==== Sys2Proof/Laws/PerInstr.lean ====
section
/-! SUPPORT. Statements made once per instruction: the family EncodedLength says that an instruction's encoding
has the length the table gives it (`length_bytes` of spec/opcode_table.json, 10_state.md R24) and that only the
operations without a byte have an empty one. -/

namespace Sys2Proof.Laws.EncodedLength

def Statement (i : Instr) : Prop :=
  (encode i).length = i.lengthBytes ∧ (encode i = [] ↔ i.lengthBytes = 0)

theorem fhdr : Statement .fhdr := by simp [Statement, encode, Instr.lengthBytes]
theorem eof : Statement .eof := by simp [Statement, encode, Instr.lengthBytes]
theorem dummy : Statement .dummy := by simp [Statement, encode, Instr.lengthBytes]
theorem segn (first last : Half) : Statement (.segn first last) := by
  simp [Statement, encode, Instr.lengthBytes]
theorem payload (p : Byte) : Statement (.payload p) := by
  simp [Statement, encode, Instr.lengthBytes]
theorem segc (first last : Half) (ctype : Byte) : Statement (.segc first last ctype) := by
  simp [Statement, encode, Instr.lengthBytes]
theorem token (lcode mcode : Nibble) : Statement (.token lcode mcode) := by
  simp [Statement, encode, Instr.lengthBytes]
theorem lextC : Statement .lextC := by simp [Statement, encode, Instr.lengthBytes]
theorem lextE (e : Byte) : Statement (.lextE e) := by
  simp [Statement, encode, Instr.lengthBytes]
theorem lit (v : Byte) : Statement (.lit v) := by simp [Statement, encode, Instr.lengthBytes]
theorem blkend : Statement .blkend := by simp [Statement, encode, Instr.lengthBytes]
theorem moff (d : Half) : Statement (.moff d) := by simp [Statement, encode, Instr.lengthBytes]
theorem mextC : Statement .mextC := by simp [Statement, encode, Instr.lengthBytes]
theorem mextE (e : Byte) : Statement (.mextE e) := by
  simp [Statement, encode, Instr.lengthBytes]
theorem matchCopy : Statement .matchCopy := by simp [Statement, encode, Instr.lengthBytes]
theorem emith : Statement .emith := by simp [Statement, encode, Instr.lengthBytes]
theorem emitd : Statement .emitd := by simp [Statement, encode, Instr.lengthBytes]

end Sys2Proof.Laws.EncodedLength
end

