-- ==== Sys2Proof/Laws/Run.lean ====
section
/-! SUPPORT. Runs of several steps, and the induction over them, once. -/

namespace Sys2Proof.Machine

@[simp] theorem run_zero (s : State) : core.run 0 s = .next s := rfl

/-- A run of `k + 1` steps whose first step is known. -/
theorem run_succ_of_next {s t : State} (k : Nat) (h : step s = .next t) :
    core.run (k + 1) s = core.run k t := by
  have h' : core.step s = .next t := h
  simp only [Host.Core.run, h']

theorem run_one_of_next {s t : State} (h : step s = .next t) : core.run 1 s = .next t := by
  rw [run_succ_of_next 0 h, run_zero]

theorem run_succ_of_fault {s : State} {f : Fault} (k : Nat) (h : step s = .fault f) :
    core.run (k + 1) s = .fault f := by
  have h' : core.step s = .fault f := h
  simp only [Host.Core.run, h']

theorem run_succ_of_refused {s : State} {r : Refusal} (k : Nat) (h : step s = .refused r) :
    core.run (k + 1) s = .refused r := by
  have h' : core.step s = .refused r := h
  simp only [Host.Core.run, h']

/-- Runs compose. -/
theorem run_add {s t : State} (j k : Nat) (h : core.run j s = .next t) :
    core.run (j + k) s = core.run k t := by
  induction j generalizing s with
  | zero =>
    rw [run_zero] at h
    cases h
    rw [Nat.zero_add]
  | succ j ih =>
    cases hs : step s with
    | next u =>
      rw [run_succ_of_next j hs] at h
      rw [show j + 1 + k = (j + k) + 1 by omega, run_succ_of_next _ hs]
      exact ih h
    | fault f =>
      rw [run_succ_of_fault j hs] at h
      cases h
    | refused r =>
      rw [run_succ_of_refused j hs] at h
      cases h

/-- What every step keeps holds at the end of a run that starts with it. -/
theorem run_induction {P : State → Prop} (keeps : ∀ s t, P s → step s = .next t → P t)
    (k : Nat) {s t : State} (hs : P s) (h : core.run k s = .next t) : P t := by
  induction k generalizing s with
  | zero =>
    rw [run_zero] at h
    cases h
    exact hs
  | succ k ih =>
    cases hstep : step s with
    | next u =>
      rw [run_succ_of_next k hstep] at h
      exact ih (keeps s u hs hstep) h
    | fault f =>
      rw [run_succ_of_fault k hstep] at h
      cases h
    | refused r =>
      rw [run_succ_of_refused k hstep] at h
      cases h

end Sys2Proof.Machine
end

