-- ==== Sys2Proof/Laws/Step.lean ====
section
/-! SUPPORT. What a step can do, said once: it runs the fetched instruction, or it is the fetch's own move, and it
never refuses. -/

namespace Sys2Proof.Machine

/-- No meaning refuses. -/
theorem exec_ne_refused (i : Instr) (s : State) (r : Refusal) : exec i s ≠ .refused r := by
  cases i <;>
    simp only [exec, execFhdr, execEof, execDummy, execSegn, execPayload, execSegc, execToken,
      execLextC, execLextE, execLit, execBlkend, execMoff, execMextC, execMextE, execMatchCopy,
      execEmith, execEmitd] <;>
    (repeat' split) <;> simp

/-- No step refuses. -/
theorem step_ne_refused (s : State) (r : Refusal) : step s ≠ .refused r := by
  unfold step
  split
  · exact exec_ne_refused _ _ _
  · simp
  · simp

/-- A meaning stops only where a counter is 0 or a byte of DBUF does not exist. -/
theorem exec_fault {i : Instr} {s : State} {f : Fault} (h : exec i s = .fault f) :
    f = .counterZero ∨ f = .dbufRead := by
  cases i <;>
    simp only [exec, execFhdr, execEof, execDummy, execSegn, execPayload, execSegc, execToken,
      execLextC, execLextE, execLit, execBlkend, execMoff, execMextC, execMextE, execMatchCopy,
      execEmith, execEmitd] at h <;>
    (repeat' split at h) <;> simp_all

/-- Every next state comes from the fetched instruction or is the fetch's own. -/
theorem step_next_cases {s t : State} (h : step s = .next t) :
    (∃ i, s.fetch = .run i ∧ exec i s = .next t) ∨ s.fetch = .moved t := by
  unfold step at h
  split at h
  · exact .inl ⟨_, ‹_›, h⟩
  · cases h
    exact .inr ‹_›
  · cases h

/-- A step of a fetched instruction is its meaning. -/
theorem step_of_run {s : State} {i : Instr} (h : s.fetch = .run i) : step s = exec i s := by
  simp [step, h]

/-- A step that the fetch ends. -/
theorem step_of_moved {s t : State} (h : s.fetch = .moved t) : step s = .next t := by
  simp [step, h]

/-- A full buffer in L_LIT raises before an item is asked for (row 28 of R220). -/
theorem fetch_of_full {s : State} (hp : s.phase = .lLit) (hf : s.full = true) :
    s.fetch = .moved (s.raise .capacityFault) := by
  simp [State.fetch, hp, hf]

/-- Where the buffer is not full in L_LIT, and in every other phase, the decoder decides. -/
theorem fetch_of_not_full {s : State} (h : s.phase ≠ .lLit ∨ s.full = false) :
    s.fetch =
      match decode s.phase (s.latched ++ s.item.toBytes) with
      | .ok i _ => .run i
      | .illegal e => .moved (s.taken.raise e)
      | .truncated e =>
        match s.item with
        | .eos => .moved (s.raise e)
        | .byte x =>
          match s.latch x with
          | some t => .moved t
          | none => .stopped .noLatch
      | .noElement => .stopped .stopped := by
  unfold State.fetch
  exact if_neg (by rcases h with h | h <;> simp [h])

end Sys2Proof.Machine
end

