-- ==== Sys2Proof/Tests/Slice0.lean ====
section
/-! SUPPORT. The tests: well-formedness, decoding of words written out from the spec's encodings, one step of every
instruction with the values of 95_test_vectors.md, and for every obligation with hypotheses a state that meets
them. -/

namespace Sys2Proof.Tests

open Sys2Proof.Machine

/-- The state a step answers, if it answers one. -/
def nextOf : Host.Outcome State Fault Refusal → Option State
  | .next t => some t
  | .fault _ => none
  | .refused _ => none

/-- A CORE in phase `p` with `bytes` at its cursor, everything else as after reset. -/
def stateAt (p : Phase) (bytes : List Byte) : State :=
  { State.load Config.default bytes with phase := p }

/-- A decoded buffer holding `bytes`. -/
def bufferOf (bytes : List Byte) : Memory := bytes.foldl Memory.append Memory.empty

/-- `first = 0x2000` and `last = 0`, the compressed header of vectors V28 to V43. -/
def inBlock (p : Phase) (buffer bytes : List Byte) : State :=
  { stateAt p bytes with fhi := 0x20, dbuf := bufferOf buffer }

/-! ### WellFormed refuses what it must -/

theorem test_wf_segn_first_ffff : (Instr.segn 0xFFFF 0xFFFF).wellFormed = false := by decide
theorem test_wf_segn_last_below : (Instr.segn 0x2000 0x1FFF).wellFormed = false := by decide
theorem test_wf_segn_one_byte : (Instr.segn 0x2000 0x2000).wellFormed = true := by decide
theorem test_wf_segc_first_ffff : (Instr.segc 0xFFFF 0x0000 0x01).wellFormed = false := by decide
theorem test_wf_segc_last_not_below : (Instr.segc 0x2000 0x2000 0x01).wellFormed = false := by decide
theorem test_wf_segc_smallest : (Instr.segc 0x0001 0x0000 0x07).wellFormed = true := by decide
theorem test_wf_lext_255 : (Instr.lextE 0xFF).wellFormed = false := by decide
theorem test_wf_lext_254 : (Instr.lextE 0xFE).wellFormed = true := by decide
theorem test_wf_mext_255 : (Instr.mextE 0xFF).wellFormed = false := by decide

/-! ### Decoding: one word of every instruction, written out from the tables of 30_encoding.md -/

/-- R91. -/
theorem test_decode_fhdr : decode .pMagic0 [0b11111111, 0b11111111] = .ok .fhdr [] := by decide
/-- R91: the illegal encoding. -/
theorem test_decode_bad_magic : decode .pMagic0 [0b00000000, 0b11111111] = .illegal .badMagic := by
  decide
/-- R90, R131. -/
theorem test_decode_eof : decode .pFirst0 [] = .ok .eof [] := by decide
/-- R92. -/
theorem test_decode_dummy :
    decode .pFirst0 [0b11111111, 0b11111111, 0x5A] = .ok .dummy [0x5A] := by decide
/-- R92: `FF 00` is no dummy; vector V16. -/
theorem test_decode_not_dummy :
    decode .pFirst0 [0xFF, 0x00, 0xFF, 0x00] = .ok (.segn 0x00FF 0x00FF) [] := by decide
/-- R93, low byte first: `first = 0x1234`, `last = 0xABCD`. -/
theorem test_decode_segn :
    decode .pFirst0 [0b00110100, 0b00010010, 0b11001101, 0b10101011] =
      .ok (.segn 0x1234 0xABCD) [] := by decide
/-- R94. -/
theorem test_decode_payload : decode .pCopy [0b10100101] = .ok (.payload 0xA5) [] := by decide
/-- R93, R95. -/
theorem test_decode_segc :
    decode .pFirst0 [0b00000000, 0b00100000, 0b11111111, 0b00011111, 0b00000001] =
      .ok (.segc 0x2000 0x1FFF 0x01) [] := by decide
/-- R96: the high nibble is LCODE. -/
theorem test_decode_token : decode .lToken [0b01010010] = .ok (.token 5 2) [] := by decide
/-- R97. -/
theorem test_decode_lext_c : decode .lLitext [0b11111111] = .ok .lextC [] := by decide
/-- R97. -/
theorem test_decode_lext_e : decode .lLitext [0b11111110] = .ok (.lextE 0xFE) [] := by decide
/-- R98: a literal 0xFF is data. -/
theorem test_decode_lit : decode .lLit [0b11111111] = .ok (.lit 0xFF) [] := by decide
/-- R100. -/
theorem test_decode_blkend : decode .lOff0 [] = .ok .blkend [] := by decide
/-- R99, low byte first. -/
theorem test_decode_moff :
    decode .lOff0 [0b00110100, 0b00010010] = .ok (.moff 0x1234) [] := by decide
/-- R97. -/
theorem test_decode_mext_c : decode .lMext [0b11111111] = .ok .mextC [] := by decide
/-- R97. -/
theorem test_decode_mext_e : decode .lMext [0b00000101] = .ok (.mextE 5) [] := by decide
/-- The operations without a byte leave the stream alone. -/
theorem test_decode_internal :
    decode .lMatch [0x41] = .ok .matchCopy [0x41] ∧ decode .eHdr [] = .ok .emith [] ∧
      decode .eData [] = .ok .emitd [] := by decide
/-- R22: nothing is decoded after a stop. -/
theorem test_decode_stopped : decode .fault [0x00] = .noElement ∧ decode .done [] = .noElement := by
  decide

/-! ### The encoder and the notation of R105 -/

/-- Vector V6: `SEQ lit=[62], off=1, mlen=8` and `FINAL lit=[]`. -/
theorem test_notation_v6 :
    assemble (sequenceElements [0x62] 1 8 ++ finalElements []) = [0x14, 0x62, 0x01, 0x00, 0x00] := by
  decide
/-- Vector V30b: a match of 274 bytes has extension `FF 00`. -/
theorem test_notation_v30b :
    assemble (sequenceElements [0x5A] 1 274) = [0x1F, 0x5A, 0x01, 0x00, 0xFF, 0x00] := by decide

/-! ### Table words -/

/-- The first word of SEGN has the first stream byte in bits 7..0. -/
theorem test_table_segn : decodeTableWord 32 0x20032000 = some (.segn 0x2000 0x2003) := by decide
theorem test_table_segc : decodeTableWord 40 0x011FFF2000 = some (.segc 0x2000 0x1FFF 1) := by decide
theorem test_table_moff : decodeTableWord 16 0x0001 = some (.moff 1) := by decide
theorem test_table_fhdr : decodeTableWord 16 0xFFFF = some .fhdr := by decide
theorem test_table_token : decodeTableWord 8 0x52 = some (.token 5 2) := by decide
theorem test_table_odd_length : decodeTableWord 24 0 = none := by decide
/-- The placed file header runs as the first instruction after reset. -/
theorem test_place_fhdr :
    (nextOf (step (State.reset.withFetchWord 16 0xFFFF))).map (fun t => (t.out, t.phase)) =
      some ([0xFF, 0xFF], .pFirst0) := by decide
theorem test_place_segn :
    (nextOf (step (State.reset.withFetchWord 32 0x20032000))).map (fun t => (t.out, t.rem)) =
      some ([0x00, 0x20, 0x03, 0x20], 4) := by decide

/-! ### One step of every instruction -/

/-- Vector V2, row 5. -/
theorem test_fhdr :
    (nextOf (step { stateAt .pMagic1 [0xFF, 0xFF] with m0 := 0xFF, ipos := 1 })).map
      (fun t => (t.out, t.phase, t.ipos)) = some ([0xFF, 0xFF], .pFirst0, 2) := by decide
/-- Vector V11a, row 4: both bytes are read before the comparison. -/
theorem test_fhdr_bad_magic :
    (nextOf (step { stateAt .pMagic1 [0x00, 0xFF, 0x00] with m0 := 0x00, ipos := 1 })).map
      (fun t => (t.err, t.status, t.ipos, t.out)) = some (1, .fault, 2, []) := by decide
/-- Vector V2, row 6. -/
theorem test_eof :
    (nextOf (step (stateAt .pFirst0 []))).map (fun t => (t.phase, t.status, t.err)) =
      some (.done, .done, 0) := by decide
/-- Vector V3, row 9. -/
theorem test_dummy :
    (nextOf (step { stateAt .pFirst1 [0xFF] with flo := 0xFF })).map
      (fun t => (t.phase, t.fhi, t.out)) = some (.pFirst0, 0xFF, []) := by decide
/-- Vector V13, row 8. -/
theorem test_header_truncated :
    (nextOf (step (stateAt .pFirst1 []))).map (fun t => (t.phase, t.err)) = some (.fault, 2) := by
  decide
/-- Vector V1, row 14. -/
theorem test_segn :
    (nextOf (step { stateAt .pLast1 [0x00, 0x41] with llo := 0x02 })).map
      (fun t => (t.out, t.rem, t.lhi, t.phase)) = some ([0x00, 0x00, 0x02, 0x00], 3, 0x00, .pCopy) := by
  decide
/-- Vector V20a, row 14: the largest payload needs the 17th bit. -/
theorem test_segn_largest :
    (nextOf (step { stateAt .pLast1 [0xFF] with llo := 0xFF })).map (fun t => t.rem.toNat) =
      some 65536 := by decide
/-- Vector V1, row 18. -/
theorem test_payload_last :
    (nextOf (step { stateAt .pCopy [0x43] with llo := 0x02, rem := 1 })).map
      (fun t => (t.out, t.trace, t.phase)) = some ([0x43], [.normal 0 2], .pFirst0) := by decide
/-- Vector V7, row 16. -/
theorem test_payload_truncated :
    (nextOf (step { stateAt .pCopy [] with rem := 1 })).map (fun t => (t.phase, t.err)) =
      some (.fault, 3) := by decide
/-- Vector V5, row 20: the buffer starts empty. -/
theorem test_segc :
    (nextOf (step { inBlock .pCtype [0x41] [0x01] with llo := 0xFF, lhi := 0x1F })).map
      (fun t => (t.ctype, t.n, t.out, t.phase)) = some (0x01, 0, [], .lToken) := by decide
/-- Vector V21, row 19. -/
theorem test_segc_truncated :
    (nextOf (step (stateAt .pCtype []))).map (fun t => (t.phase, t.err)) = some (.fault, 2) := by
  decide
/-- R162's example: token 0x52. -/
theorem test_token :
    (nextOf (step (stateAt .lToken [0x52]))).map (fun t => (t.token, t.litlen, t.mcode, t.phase)) =
      some (0x52, 5, 2, .lLit) := by decide
/-- Vector V24, row 24. -/
theorem test_token_no_literals :
    (nextOf (step (stateAt .lToken [0x00]))).map (fun t => (t.litlen, t.phase)) =
      some (0, .lOff0) := by decide
/-- R163's example, first byte: 15 + 255. -/
theorem test_lext_c :
    (nextOf (step { stateAt .lLitext [0xFF, 0x0A] with litlen := 15 })).map
      (fun t => (t.litlen, t.phase)) = some (270, .lLitext) := by decide
/-- R163's example, second byte: 280. -/
theorem test_lext_e :
    (nextOf (step { stateAt .lLitext [0x0A] with litlen := 270 })).map
      (fun t => (t.litlen, t.phase)) = some (280, .lLit) := by decide
/-- R164's example, second LIT step. -/
theorem test_lit :
    (nextOf (step { inBlock .lLit [0x41, 0x42] [0x43] with litlen := 1 })).map
      (fun t => (t.dbuf.bytes, t.litlen, t.phase)) = some ([0x41, 0x42, 0x43], 0, .lOff0) := by decide
/-- Vector V40f, row 28: capacity is tested before the input. -/
theorem test_lit_capacity :
    (nextOf (step { inBlock .lLit [0x41] [] with cfg := ⟨some 1, .eosAtOffset⟩, litlen := 2 })).map
      (fun t => (t.err, t.n, t.ipos)) = some (6, 1, 0) := by decide
/-- Vector V5, row 32. -/
theorem test_blkend :
    (nextOf (step (inBlock .lOff0 [0x41] []))).map (fun t => (t.phase, t.n)) = some (.eHdr, 1) := by
  decide
/-- Vector V38, row 37: `D = N` is legal. -/
theorem test_moff :
    (nextOf (step { inBlock .lOff1 [0x41, 0x42, 0x43] [0x00] with olo := 0x03, token := 0x30 })).map
      (fun t => (t.offs, t.mlen, t.phase)) = some (3, 4, .lMatch) := by decide
/-- Vector V31, row 35: `D > N`, and the byte has been consumed. -/
theorem test_moff_corrupt :
    (nextOf (step { inBlock .lOff1 [0x41] [0x00] with olo := 0x02, token := 0x10 })).map
      (fun t => (t.err, t.phase, t.ipos)) = some (5, .fault, 1) := by decide
/-- Vector V30b, row 39: 19 + 255. -/
theorem test_mext_c :
    (nextOf (step { stateAt .lMext [0xFF, 0x00] with mlen := 19 })).map
      (fun t => (t.mlen, t.phase)) = some (274, .lMext) := by decide
/-- R169's example: 24. -/
theorem test_mext_e :
    (nextOf (step { stateAt .lMext [0x05] with mlen := 19 })).map (fun t => (t.mlen, t.phase)) =
      some (24, .lMatch) := by decide
/-- Vector V29, row 42: the byte two behind the write position. -/
theorem test_match :
    (nextOf (step { inBlock .lMatch [0x78, 0x79] [] with offs := 2, mlen := 6 })).map
      (fun t => (t.dbuf.bytes, t.mlen, t.phase)) = some ([0x78, 0x79, 0x78], 5, .lMatch) := by decide
/-- Vector V6, row 43: the last byte of the match. -/
theorem test_match_last :
    (nextOf (step { inBlock .lMatch [0x62] [] with offs := 1, mlen := 1 })).map
      (fun t => (t.dbuf.bytes, t.phase)) = some ([0x62, 0x62], .lToken) := by decide
/-- Vector V8, row 45: `(65534 + 4 - 1) mod 65536 = 1`. -/
theorem test_emith :
    (nextOf (step { inBlock .eHdr [1, 2, 3, 4] [] with flo := 0xFE, fhi := 0xFF })).map
      (fun t => (t.out, t.eidx, t.phase)) = some ([0xFE, 0xFF, 0x01, 0x00], 0, .eData) := by decide
/-- Vector V27, row 44: `first = 1`, N = 0. -/
theorem test_emith_empty :
    (nextOf (step { inBlock .eHdr [] [] with flo := 0x01, fhi := 0x00, ctype := 0x07 })).map
      (fun t => (t.out, t.trace, t.phase)) =
      some ([0x01, 0x00, 0x00, 0x00], [.compressed 1 0 7 0], .pFirst0) := by decide
/-- Vector V5, row 46. -/
theorem test_emitd :
    (nextOf (step (inBlock .eData [0x41, 0x42, 0x43] []))).map (fun t => (t.out, t.eidx, t.phase)) =
      some ([0x41], 1, .eData) := by decide
/-- Vector V5, row 47. -/
theorem test_emitd_last :
    (nextOf (step { inBlock .eData [0x41, 0x42, 0x43] [] with eidx := 2, ctype := 1 })).map
      (fun t => (t.out, t.trace, t.phase)) =
      some ([0x43], [.compressed 0x2000 0x2002 1 3], .pFirst0) := by decide
/-- R22, R258: after a stop there is no step. -/
theorem test_stopped : nextOf (step (stateAt .fault [0x00])) = none := by decide
/-- What the host reads after a fault (R32). -/
theorem test_host_view : ((stateAt .lToken []).raise .truncatedBlock).hostView = (.fault, 4, 0) := by
  decide
/-- R230 on vector V5. -/
theorem test_reference_v5 :
    (refRun none [0xFF, 0xFF, 0x00, 0x20, 0xFF, 0x1F, 0x01, 0x30, 0x41, 0x42, 0x43]).out =
      [0xFF, 0xFF, 0x00, 0x20, 0x02, 0x20, 0x41, 0x42, 0x43] := by decide

/-! ### Witnesses: for every obligation with hypotheses, states and operands that meet them -/

theorem witness_FileHeaderIsReadAndChecked :
    ((stateAt .pMagic0 []).phase = .pMagic0 ∧ (stateAt .pMagic0 []).item = .eos) ∧
    ((stateAt .pMagic0 [0xFF]).phase = .pMagic0 ∧ (stateAt .pMagic0 [0xFF]).item = .byte 0xFF) ∧
    ((stateAt .pMagic1 []).phase = .pMagic1 ∧ (stateAt .pMagic1 []).item = .eos) ∧
    ((stateAt .pMagic1 [0xFF]).phase = .pMagic1 ∧ (stateAt .pMagic1 [0xFF]).item = .byte 0xFF ∧
      ((stateAt .pMagic1 [0xFF]).m0 ≠ 0xFF ∨ (0xFF : Byte) ≠ 0xFF)) ∧
    ∃ s : State, s.phase = .pMagic1 ∧ s.item = .byte 0xFF ∧ s.m0 = 0xFF :=
  ⟨by decide, by decide, by decide, by decide, { stateAt .pMagic1 [0xFF] with m0 := 0xFF }, by decide⟩

/-- The other illegal file header: only the second byte is wrong (vector V11b). -/
theorem witness_FileHeaderIsReadAndChecked_second :
    ∃ (s : State) (x : Byte), s.phase = .pMagic1 ∧ s.item = .byte x ∧ s.m0 = 0xFF ∧ x ≠ 0xFF :=
  ⟨{ stateAt .pMagic1 [0xFE] with m0 := 0xFF }, 0xFE, by decide⟩

theorem witness_EndOfFileStopsCleanly :
    (stateAt .pFirst0 []).phase = .pFirst0 ∧ (stateAt .pFirst0 []).item = .eos := by decide

theorem witness_DummyHeaderIsDropped :
    ((stateAt .pFirst0 [0xFF]).phase = .pFirst0 ∧ (stateAt .pFirst0 [0xFF]).item = .byte 0xFF) ∧
    ((stateAt .pFirst1 []).phase = .pFirst1 ∧ (stateAt .pFirst1 []).item = .eos) ∧
    (∃ s : State, s.phase = .pFirst1 ∧ s.item = .byte 0xFF ∧ s.flo = 0xFF) ∧
    ∃ (s : State) (x : Byte), s.phase = .pFirst1 ∧ s.item = .byte x ∧ ¬ (s.flo = 0xFF ∧ x = 0xFF) :=
  ⟨by decide, by decide, ⟨{ stateAt .pFirst1 [0xFF] with flo := 0xFF }, by decide⟩,
    { stateAt .pFirst1 [0x00] with flo := 0xFF }, 0x00, by decide⟩

/-- Clauses 1 to 3, 4 at `last = first` (vector V16) and 5 at `last = first - 1` (vector V5). -/
theorem witness_HeaderIsCompletedAndClassified :
    ((stateAt .pLast0 []).phase = .pLast0 ∧ (stateAt .pLast0 []).item = .eos) ∧
    ((stateAt .pLast0 [0x02]).phase = .pLast0 ∧ (stateAt .pLast0 [0x02]).item = .byte 0x02) ∧
    ((stateAt .pLast1 []).phase = .pLast1 ∧ (stateAt .pLast1 []).item = .eos) ∧
    (∃ (s : State) (x : Byte), s.phase = .pLast1 ∧ s.item = .byte x ∧
      (u16 s.flo s.fhi).toNat ≤ (u16 s.llo x).toNat) ∧
    ∃ (s : State) (x : Byte), s.phase = .pLast1 ∧ s.item = .byte x ∧
      (u16 s.llo x).toNat < (u16 s.flo s.fhi).toNat :=
  ⟨by decide, by decide, by decide,
    ⟨{ stateAt .pLast1 [0x00] with flo := 0xFF, llo := 0xFF }, 0x00, by decide⟩,
    { stateAt .pLast1 [0x1F] with fhi := 0x20, llo := 0xFF }, 0x1F, by decide⟩

/-- The largest segment, `first = 0` and `last = 0xFFFF` (vector V20a). -/
theorem witness_NormalSegmentHeaderIsCopied :
    ∃ (s : State) (x : Byte), s.phase = .pLast1 ∧ s.item = .byte x ∧
      (u16 s.flo s.fhi).toNat ≤ (u16 s.llo x).toNat ∧
      (u16 s.llo x).toNat - (u16 s.flo s.fhi).toNat + 1 = 65536 :=
  ⟨{ stateAt .pLast1 [0xFF] with llo := 0xFF }, 0xFF, by decide⟩

/-- REM = 2 and REM = 65536 in the second clause, REM = 1 in the third. -/
theorem witness_PayloadByteIsCopied :
    ((stateAt .pCopy []).phase = .pCopy ∧ (stateAt .pCopy []).item = .eos) ∧
    (∃ (s : State) (x : Byte), s.phase = .pCopy ∧ s.item = .byte x ∧ 1 < s.rem.toNat ∧
      s.rem.toNat = 2) ∧
    (∃ (s : State) (x : Byte), s.phase = .pCopy ∧ s.item = .byte x ∧ 1 < s.rem.toNat ∧
      s.rem.toNat = 65536) ∧
    ∃ (s : State) (x : Byte), s.phase = .pCopy ∧ s.item = .byte x ∧ s.rem.toNat = 1 :=
  ⟨by decide, ⟨{ stateAt .pCopy [0x41] with rem := 2 }, 0x41, by decide⟩,
    ⟨{ stateAt .pCopy [0x03] with rem := 0x10000 }, 0x03, by decide⟩,
    { stateAt .pCopy [0x43] with rem := 1 }, 0x43, by decide⟩

theorem witness_CompressedSegmentStartsTheDecoder :
    (∃ (s : State) (x : Byte), s.phase = .pLast1 ∧ s.item = .byte x ∧
      (u16 s.llo x).toNat < (u16 s.flo s.fhi).toNat) ∧
    ((stateAt .pCtype []).phase = .pCtype ∧ (stateAt .pCtype []).item = .eos) ∧
    ((stateAt .pCtype [0xFF]).phase = .pCtype ∧ (stateAt .pCtype [0xFF]).item = .byte 0xFF) :=
  ⟨⟨{ stateAt .pLast1 [0x00] with flo := 0x01 }, 0x00, by decide⟩, by decide, by decide⟩

/-- EOS, and a token for each of the three next phases at the ends of its range. -/
theorem witness_TokenStartsASequence :
    ((stateAt .lToken []).phase = .lToken ∧ (stateAt .lToken []).item = .eos) ∧
    (∀ x ∈ ([0x00, 0x0F, 0x10, 0xEF, 0xF0, 0xFF] : List Byte),
      (stateAt .lToken [x]).phase = .lToken ∧ (stateAt .lToken [x]).item = .byte x) := by decide

theorem witness_LiteralLengthIsExtended :
    ((stateAt .lLitext []).phase = .lLitext ∧ (stateAt .lLitext []).item = .eos) ∧
    ((stateAt .lLitext [255]).phase = .lLitext ∧ (stateAt .lLitext [255]).item = .byte 255) ∧
    (∀ x ∈ ([0, 254] : List Byte),
      (stateAt .lLitext [x]).phase = .lLitext ∧ (stateAt .lLitext [x]).item = .byte x ∧ x ≠ 255) := by
  decide

/-- A CORE with DEC_CAP = 2 whose buffer holds `bytes`. -/
def withCap2 (p : Phase) (buffer bytes : List Byte) : State :=
  { inBlock p buffer bytes with cfg := ⟨some 2, .eosAtOffset⟩, litlen := 1, mlen := 1, offs := 1 }

/-- A full buffer, with and without a byte at the port; one byte of room left; LITLEN = 1. -/
theorem witness_LiteralByteIsAppended :
    ((withCap2 .lLit [1, 2] []).phase = .lLit ∧
      (withCap2 .lLit [1, 2] []).cfg.decCap = some (withCap2 .lLit [1, 2] []).n) ∧
    ((withCap2 .lLit [1] []).phase = .lLit ∧
      (∀ c, (withCap2 .lLit [1] []).cfg.decCap = some c → (withCap2 .lLit [1] []).n < c) ∧
      (withCap2 .lLit [1] []).item = .eos) ∧
    ((withCap2 .lLit [1] [7]).phase = .lLit ∧
      (∀ c, (withCap2 .lLit [1] [7]).cfg.decCap = some c → (withCap2 .lLit [1] [7]).n < c) ∧
      (withCap2 .lLit [1] [7]).item = .byte 7 ∧ 1 ≤ (withCap2 .lLit [1] [7]).litlen) := by
  refine ⟨by decide, ⟨by decide, ?_, by decide⟩, by decide, ?_, by decide⟩ <;>
    (intro c h; cases h; decide)

/-- The same with DEC_CAP = ∞, where the premise on the capacity is empty. -/
theorem witness_LiteralByteIsAppended_unbounded :
    (∀ c, (stateAt .lLit [7]).cfg.decCap = some c → (stateAt .lLit [7]).n < c) ∧
      (stateAt .lLit [7]).item = .byte 7 :=
  ⟨nofun, by decide⟩

theorem witness_BlockEndsAtEndOfStream :
    (stateAt .lOff0 []).cfg.termRule = .eosAtOffset ∧ (stateAt .lOff0 []).phase = .lOff0 ∧
      (stateAt .lOff0 []).item = .eos := by decide

/-- N = 3, the first offset byte `d` taken and the second, 0, at the port. -/
def secondOffsetByte (d : Byte) : State := { inBlock .lOff1 [0x41, 0x42, 0x43] [0] with olo := d }

/-- The first offset byte; EOS at the second; `D = 0` and `D = N + 1`; `D = 1` and `D = N`. -/
theorem witness_MatchOffsetIsReadAndChecked :
    ((stateAt .lOff0 [3]).phase = .lOff0 ∧ (stateAt .lOff0 [3]).item = .byte 3) ∧
    ((stateAt .lOff1 []).phase = .lOff1 ∧ (stateAt .lOff1 []).item = .eos) ∧
    (∀ d ∈ ([0, 4] : List Byte),
      (secondOffsetByte d).phase = .lOff1 ∧ (secondOffsetByte d).item = .byte 0 ∧
      ((u16 (secondOffsetByte d).olo 0).toNat = 0 ∨
        (secondOffsetByte d).n < (u16 (secondOffsetByte d).olo 0).toNat)) ∧
    (∀ d ∈ ([1, 3] : List Byte),
      (secondOffsetByte d).phase = .lOff1 ∧ (secondOffsetByte d).item = .byte 0 ∧
      1 ≤ (u16 (secondOffsetByte d).olo 0).toNat ∧
      (u16 (secondOffsetByte d).olo 0).toNat ≤ (secondOffsetByte d).n) := by decide

theorem witness_MatchLengthIsExtended :
    ((stateAt .lMext []).phase = .lMext ∧ (stateAt .lMext []).item = .eos) ∧
    ((stateAt .lMext [255]).phase = .lMext ∧ (stateAt .lMext [255]).item = .byte 255) ∧
    (∀ x ∈ ([0, 254] : List Byte),
      (stateAt .lMext [x]).phase = .lMext ∧ (stateAt .lMext [x]).item = .byte x ∧ x ≠ 255) := by
  decide

/-- A full buffer; one byte of room, OFFS = N = 1, MLEN = 1. -/
theorem witness_MatchByteIsCopied :
    (withCap2 .lMatch [1] []).phase = .lMatch ∧
    (withCap2 .lMatch [1, 2] []).cfg.decCap = some (withCap2 .lMatch [1, 2] []).n ∧
    (∀ c, (withCap2 .lMatch [1] []).cfg.decCap = some c → (withCap2 .lMatch [1] []).n < c) ∧
    (withCap2 .lMatch [1] []).dbuf.wf ∧ 1 ≤ (withCap2 .lMatch [1] []).mlen ∧
    1 ≤ (withCap2 .lMatch [1] []).offs.toNat ∧
    (withCap2 .lMatch [1] []).offs.toNat ≤ (withCap2 .lMatch [1] []).n :=
  ⟨by decide, by decide, by intro c h; cases h; decide, by decide, by decide, by decide, by decide⟩

theorem witness_DecodedHeaderIsEmitted :
    (stateAt .eHdr []).phase = .eHdr ∧ (stateAt .eHdr []).n = 0 ∧ (inBlock .eHdr [0x41] []).n ≠ 0 := by
  decide

/-- EIDX at both ends of its range. -/
theorem witness_DecodedByteIsEmitted :
    (inBlock .eData [1, 2, 3] []).phase = .eData ∧ (inBlock .eData [1, 2, 3] []).dbuf.wf ∧
    (inBlock .eData [1, 2, 3] []).eidx < (inBlock .eData [1, 2, 3] []).n ∧
    ∃ s : State, s.dbuf.wf ∧ s.eidx < s.n ∧ s.eidx + 1 = s.n :=
  ⟨by decide, by decide, by decide, { inBlock .eData [1, 2, 3] [] with eidx := 2 }, by decide⟩

theorem witness_ResetStartsAFreshRun :
    (stateAt .fault [1]).cfg = (stateAt .lLit [2, 3]).cfg := by decide

theorem witness_NoStepAfterAStop :
    (stateAt .done [0]).phase = .done ∧ (stateAt .fault [0]).phase = .fault := by decide

theorem witness_StatusFollowsPhase :
    (stateAt .done []).phase = .done ∧ (stateAt .fault []).phase = .fault ∧
      (stateAt .eData []).phase ≠ .done ∧ (stateAt .eData []).phase ≠ .fault := by decide

/-- A cause of each kind, in a state within its capacity, and a step that raises. -/
theorem witness_ErrorsHaveExactlyTheListedCauses :
    (∀ c, (withCap2 .lMatch [1, 2] []).cfg.decCap = some c → (withCap2 .lMatch [1, 2] []).n ≤ c) ∧
    faultCause (stateAt .pMagic0 []) = some .badMagic ∧
    faultCause (stateAt .pCtype []) = some .truncatedHeader ∧
    faultCause (stateAt .pCopy []) = some .truncatedSegment ∧
    faultCause (stateAt .lToken []) = some .truncatedBlock ∧
    faultCause (stateAt .lOff1 [0]) = some .corruptBlock ∧
    faultCause (withCap2 .lMatch [1, 2] []) = some .capacityFault ∧
    ∃ t, step (stateAt .lOff1 [0]) = .next t ∧ t.phase = .fault :=
  ⟨by intro c h; cases h; decide, by decide, by decide, by decide, by decide, by decide, by decide,
    _, rfl, rfl⟩

theorem witness_StepRunsTheDecodedInstruction :
    ∃ s : State, decode s.phase (s.latched ++ s.item.toBytes) = .ok (.segn 0 2) [] :=
  ⟨{ stateAt .pLast1 [0] with llo := 2 }, by decide⟩

/-- An unfinished element at EOS and at a byte, and an illegal one, none with a full buffer. -/
theorem witness_StepOfAnUnfinishedElement :
    (¬ ((stateAt .pFirst1 []).phase = .lLit ∧ (stateAt .pFirst1 []).full = true) ∧
      decode .pFirst1 ((stateAt .pFirst1 []).latched ++ (stateAt .pFirst1 []).item.toBytes) =
        .truncated .truncatedHeader ∧ (stateAt .pFirst1 []).item = .eos) ∧
    (¬ ((stateAt .lOff0 [7]).phase = .lLit ∧ (stateAt .lOff0 [7]).full = true) ∧
      decode .lOff0 ((stateAt .lOff0 [7]).latched ++ (stateAt .lOff0 [7]).item.toBytes) =
        .truncated .truncatedBlock ∧ (stateAt .lOff0 [7]).item = .byte 7) ∧
    (¬ ((stateAt .pMagic1 [7]).phase = .lLit ∧ (stateAt .pMagic1 [7]).full = true) ∧
      decode .pMagic1 ((stateAt .pMagic1 [7]).latched ++ (stateAt .pMagic1 [7]).item.toBytes) =
        .illegal .badMagic) := by decide

theorem witness_DecodeOfEncodeIsTheInstruction :
    (Instr.segn 0xFFFE 0xFFFF).wellFormed = true ∧
      ((Instr.segn 0xFFFE 0xFFFF).isEndOfStream = true → ([0x41] : List Byte) = []) ∧
      Instr.blkend.wellFormed = true ∧ (Instr.blkend.isEndOfStream = true → ([] : List Byte) = []) := by
  decide

theorem witness_EncodeOfDecodeIsTheBytes :
    Phase.pFirst0.startsElement = true ∧
      decode .pFirst0 [0xFE, 0xFF, 0x00, 0x00, 0x00, 0x40] = .ok (.segc 0xFFFE 0 0) [0x40] := by decide

/-- A five-byte element in the middle of a stream, and one of a single byte. -/
theorem witness_ElementRunsAtItsLastByte :
    (∃ s : State, (Instr.segc 0x2000 0x1FFF 1).wellFormed = true ∧
      s.phase = (Instr.segc 0x2000 0x1FFF 1).startPhase ∧ encode (.segc 0x2000 0x1FFF 1) ≠ [] ∧
      encode (.segc 0x2000 0x1FFF 1) <+: s.inp.drop s.ipos) ∧
    ∃ s : State, (Instr.lextE 0xFE).wellFormed = true ∧ s.phase = (Instr.lextE 0xFE).startPhase ∧
      encode (.lextE 0xFE) ≠ [] ∧ encode (.lextE 0xFE) <+: s.inp.drop s.ipos :=
  ⟨⟨{ stateAt .pFirst0 [0xFF, 0xFF, 0x00, 0x20, 0xFF, 0x1F, 0x01, 0x30] with ipos := 2 }, by decide⟩,
    stateAt .lLitext [0xFE, 0x41], by decide⟩

/-- The ends of both ranges: 0 and 65534, 1 and 65534. -/
theorem witness_DecodedHeaderHasFirstInRange :
    decode .pFirst0 [0x00, 0x00, 0x00, 0x00] = .ok (.segn 0 0) [] ∧
    decode .pFirst0 [0xFE, 0xFF, 0xFF, 0xFF] = .ok (.segn 0xFFFE 0xFFFF) [] ∧
    decode .pFirst0 [0x01, 0x00, 0x00, 0x00, 0x07] = .ok (.segc 1 0 7) [] ∧
    decode .pFirst0 [0xFE, 0xFF, 0x00, 0x00, 0x00] = .ok (.segc 0xFFFE 0 0) [] := by decide

theorem witness_FieldArithmeticIsExact :
    (0 : Half).toNat ≤ (0xFFFF : Half).toNat ∧ 1 ≤ (0xFFFE : Half).toNat := by decide

/-- On both sides of the boundary: `first = 0xFFFE` with N = 2 and N = 3. -/
theorem witness_EmittedHeaderDescribesTheData :
    1 ≤ (0xFFFE : Half).toNat ∧ (0xFFFE : Half).toNat + 2 - 1 ≤ 65535 ∧
      ¬ (0xFFFE : Half).toNat + 3 - 1 ≤ 65535 := by decide

theorem witness_AppendReadsBackAndKeepsTheRest :
    Memory.empty.wf ∧ (bufferOf [0x41, 0x42]).wf ∧ 1 ≠ (bufferOf [0x41, 0x42]).size := by decide

/-- A storing instruction, an emptying one and one that leaves DBUF alone, each with a next state. -/
theorem witness_OnlyLitMatchAndSegcWriteDbuf :
    (∃ (s t : State), exec (.lit 0x43) s = .next t) ∧ (∃ (s t : State), exec .matchCopy s = .next t) ∧
    (∃ (s t : State), exec (.segc 1 0 7) s = .next t) ∧ ∃ (s t : State), exec .emith s = .next t :=
  ⟨⟨{ inBlock .lLit [0x41] [0x43] with litlen := 1 }, _, rfl⟩,
    ⟨{ inBlock .lMatch [0x41] [] with offs := 1, mlen := 1 }, _, rfl⟩,
    ⟨stateAt .pCtype [7], _, rfl⟩, stateAt .eHdr [], _, rfl⟩

theorem witness_InstructionsWriteOnlyTheirRegisters :
    ∃ (s t : State), exec (.segn 0 2) s = .next t ∧ t.rem ≠ s.rem ∧ t.out ≠ s.out :=
  ⟨stateAt .pLast1 [0], _, rfl, by decide, by decide⟩

theorem witness_RegistersAreWrittenOnlyInTheirPhases :
    ∃ s t : State, step s = .next t ∧ t.token ≠ s.token :=
  ⟨stateAt .lToken [0x52], _, rfl, by decide⟩

/-- A step over a byte, and a step at the end of the stream. -/
theorem witness_StreamsOnlyMoveForward :
    (∃ s t : State, step s = .next t ∧ t.ipos = s.ipos + 1) ∧
      ∃ s t : State, step s = .next t ∧ s.atEos = true :=
  ⟨⟨stateAt .pFirst0 [0], _, rfl, rfl⟩, stateAt .pFirst0 [], _, rfl, by decide⟩

/-- A step of the decoder, one at the compression-type byte, and one that faults. -/
theorem witness_NothingIsWrittenBeforeTheBlockEnds :
    (∃ s t : State, s.phase.isDecoder = true ∧ step s = .next t ∧ t.phase = .lLit) ∧
    (∃ s t : State, s.phase = .pCtype ∧ step s = .next t) ∧
    ∃ s t : State, s.phase.isDecoder = true ∧ step s = .next t ∧ t.phase = .fault :=
  ⟨⟨stateAt .lToken [0x52], _, rfl, rfl, rfl⟩, ⟨stateAt .pCtype [1], _, rfl, rfl⟩,
    stateAt .lToken [], _, rfl, rfl, rfl⟩

/-- A step with a record and one without. -/
theorem witness_TraceRecordsCompletedSegments :
    (∃ s t : State, step s = .next t ∧ t.trace = [.normal 0 2]) ∧
      ∃ s t : State, step s = .next t ∧ t.trace = [] :=
  ⟨⟨{ stateAt .pCopy [0x43] with llo := 2, rem := 1 }, _, rfl, rfl⟩, stateAt .pFirst0 [], _, rfl, rfl⟩

/-- Two states that differ in registers dead in L_TOKEN, where a step exists; and two at a stop. -/
theorem witness_DeadRegistersDoNotMatter :
    (∃ s s' t : State, LiveAgree s s' ∧ s ≠ s' ∧ step s = .next t) ∧
      ∃ s s' : State, LiveAgree s s' ∧ s ≠ s' ∧ step s = .fault .stopped := by
  refine ⟨⟨stateAt .lToken [0x52], { stateAt .lToken [0x52] with m0 := 9, offs := 9, litlen := 9 }, _,
    ?_, by decide, rfl⟩, stateAt .done [], { stateAt .done [] with flo := 9, dbuf := bufferOf [1] },
    ?_, by decide, rfl⟩ <;>
    constructor <;> simp [stateAt, Phase.hasRealHeader, Phase.isDecoder, Phase.isEmitter]

/-- A start with other register values, a run that reaches a state, and one that stops. -/
theorem witness_ResetRegisterValuesDoNotMatter :
    ∃ s : State, s.phase = .pMagic0 ∧ s.err = 0 ∧ s.ipos = 0 ∧ s.out = [] ∧ s.trace = [] ∧
      s ≠ State.load s.cfg s.inp ∧ (∃ t, core.run 1 s = .next t) ∧
      core.run 2 s = .fault .stopped :=
  ⟨{ stateAt .pMagic0 [] with m0 := 0xFF, litlen := 3 }, by decide, by decide, by decide, by decide,
    by decide, by decide, ⟨_, rfl⟩, rfl⟩

/-- A full buffer is within the capacity; a row and a step exist there. -/
theorem witness_StepIsTheTransitionTable :
    ∃ s : State, (∀ c, s.cfg.decCap = some c → s.n ≤ c) ∧ (∃ k t, tableRow s = some (k, t)) ∧
      ∃ t, step s = .next t :=
  ⟨withCap2 .lLit [1, 2] [], by intro c h; cases h; decide, ⟨_, _, rfl⟩, _, rfl⟩

/-- The start of a run is in the invariant and has a step. -/
theorem witness_StepKeepsTheInvariant :
    ∃ s t : State, Inv s ∧ s.phase ≠ .done ∧ s.phase ≠ .fault ∧ step s = .next t := by
  refine ⟨State.load Config.default [0xFF, 0xFF], _, ?_, by decide, by decide, rfl⟩
  constructor <;>
    first
    | exact Memory.empty_wf
    | simp [State.n, Phase.hasRealHeader, Phase.inCompressed, State.magicInOut]

theorem witness_StepExistsUntilTheStop :
    ∃ s : State, Inv s ∧ s.phase ≠ .done ∧ s.phase ≠ .fault := by
  obtain ⟨s, _, h, h1, h2, _⟩ := witness_StepKeepsTheInvariant
  exact ⟨s, h, h1, h2⟩

theorem witness_EveryStepMakesProgress : ∃ s t : State, step s = .next t :=
  ⟨stateAt .pFirst0 [], _, rfl⟩

theorem witness_EveryRunStops : ∃ s : State, Inv s := by
  obtain ⟨s, h, _⟩ := witness_StepExistsUntilTheStop
  exact ⟨s, h⟩

/-- A clean stop (vector V2) and a fault stop (vector V9). -/
theorem witness_StopsMeanWhatTheySay :
    (∃ t, core.run 3 (State.load Config.default [0xFF, 0xFF]) = .next t ∧ t.status = .done) ∧
      ∃ t, core.run 1 (State.load Config.default []) = .next t ∧ t.status = .fault :=
  ⟨⟨_, rfl, rfl⟩, _, rfl, rfl⟩

/-- Stops with and without a file header in the input (vectors V2 and V9). -/
theorem witness_FileHeaderIsPreserved :
    (∃ t, core.run 3 (State.load Config.default [0xFF, 0xFF]) = .next t ∧ t.status ≠ .run) ∧
      ∃ t, core.run 1 (State.load Config.default []) = .next t ∧ t.status ≠ .run :=
  ⟨⟨_, rfl, by decide⟩, _, rfl, by decide⟩

/-- Program P1's records, and none. -/
theorem witness_PlainStreamsAreCopiedWithoutDummies :
    [PlainRecord.normal 0x0600 0x0601 [0xA9, 0x00], .dummy, .dummy,
      .normal 0x02E0 0x02E1 [0x00, 0x06]].all PlainRecord.wellFormed = true ∧
    ([] : List PlainRecord).all PlainRecord.wellFormed = true := by decide

/-- The shortest extension, 15, and 270 (vector V25b). -/
theorem witness_ExtensionBytesGiveTheLength :
    (∃ s : State, 15 ≤ 15 ∧ extensionBytes 15 <+: s.inp.drop s.ipos ∧ s.phase = .lLitext ∧
      s.litlen = 15) ∧
    ∃ s : State, 15 ≤ 270 ∧ extensionBytes 270 <+: s.inp.drop s.ipos ∧ s.phase = .lMext ∧
      s.mlen = 19 :=
  ⟨⟨{ stateAt .lLitext [0] with litlen := 15 }, by decide⟩,
    { stateAt .lMext [0xFF, 0x00] with mlen := 19 }, by decide⟩

/-- Vector V38's match: OFFS = N = 3, with exactly enough room. -/
theorem witness_WholeMatchRepeatsTheLastBytes :
    ∃ s : State, s.phase = .lMatch ∧ s.dbuf.wf ∧ 1 ≤ s.mlen ∧ 1 ≤ s.offs.toNat ∧ s.offs.toNat ≤ s.n ∧
      (∀ c, s.cfg.decCap = some c → s.n + s.mlen ≤ c) :=
  ⟨{ inBlock .lMatch [0x41, 0x42, 0x43] [] with
      cfg := ⟨some 7, .eosAtOffset⟩, offs := 3, mlen := 4 },
    by decide, by decide, by decide, by decide, by decide, by intro c h; cases h; decide⟩

/-- Vector V41: `first = 0xFFFE` and N = 2, the last address exactly. -/
theorem witness_DecodedBlockIsReframed :
    ∃ (s : State) (data : List Byte), s.phase = .lToken ∧ s.dbuf = ⟨[]⟩ ∧ s.ipos ≤ s.inp.length ∧
      refDecode s.cfg.decCap (s.inp.drop s.ipos) = .going data [] ∧ 1 ≤ data.length ∧
      1 ≤ s.first.toNat ∧ s.first.toNat + data.length - 1 ≤ 65535 :=
  ⟨{ stateAt .lToken [0x20, 0x01, 0x02] with flo := 0xFE, fhi := 0xFF }, [0x01, 0x02], by decide⟩

/-- Vector V5, and vector V41's segment up to the last address. -/
theorem witness_LiteralBlockRoundTrips :
    ((0x1FFF : Half).toNat < (0x2000 : Half).toNat ∧ (0x2000 : Half) ≠ 0xFFFF ∧
      1 ≤ ([0x41, 0x42, 0x43] : List Byte).length ∧
      (0x2000 : Half).toNat + ([0x41, 0x42, 0x43] : List Byte).length - 1 ≤ 65535) ∧
    ((0 : Half).toNat < (0xFFFE : Half).toNat ∧ (0xFFFE : Half) ≠ 0xFFFF ∧
      1 ≤ ([0x41, 0x42] : List Byte).length ∧
      (0xFFFE : Half).toNat + ([0x41, 0x42] : List Byte).length - 1 ≤ 65535) := by decide

/-- A run that reaches a state and one that stops, with DEC_CAP = 0. -/
theorem witness_SaturatedCountersGiveTheSameRun :
    (∃ t, core.run 1 (State.load ⟨some 0, .eosAtOffset⟩ []) = .next t) ∧
      core.run 2 (State.load ⟨some 0, .eosAtOffset⟩ []) = .fault .stopped :=
  ⟨⟨_, rfl⟩, rfl⟩

end Sys2Proof.Tests
end

section
/-! The STATUS view (10_state.md R30) and the values reset leaves (R38): the rules of `State.status`, of the views
N and opos after a reset, and the obligations O20 and O17. -/

namespace Sys2Proof.Machine

/-! ### STATUS as a function of PHASE -/

theorem State.status_of_done {s : State} (h : s.phase = .done) : s.status = .done := by
  simp [State.status, h]

theorem State.status_of_fault {s : State} (h : s.phase = .fault) : s.status = .fault := by
  simp [State.status, h]

/-- Each of the 17 phases other than DONE and FAULT is a running one. -/
theorem State.status_of_not_stopped {s : State} (hd : s.phase ≠ .done) (hf : s.phase ≠ .fault) :
    s.status = .run := by
  cases h : s.phase with
  | done => exact absurd h hd
  | fault => exact absurd h hf
  | _ => simp [State.status, h]

/-- Settles O20: one rule of `State.status` for each of R30's three cases. -/
theorem statusFollowsPhase : Obligations.StatusFollowsPhase := fun _ =>
  ⟨State.status_of_done, State.status_of_fault, State.status_of_not_stopped⟩

/-! ### The views after a reset -/

@[simp] theorem State.assertReset_status (s : State) (fresh : List Byte) :
    (s.assertReset fresh).status = .run :=
  State.status_of_not_stopped (by simp) (by simp)

@[simp] theorem State.assertReset_n (s : State) (fresh : List Byte) :
    (s.assertReset fresh).n = 0 := by
  simp [State.n]

@[simp] theorem State.assertReset_opos (s : State) (fresh : List Byte) :
    (s.assertReset fresh).opos = 0 := by
  simp [State.opos]

/-- `State.reset` is what asserting reset leaves with the default parameters and no input. -/
theorem State.assertReset_reset_nil : State.reset.assertReset [] = State.reset := rfl

/-- The values R38 specifies, as one conjunction. -/
theorem State.assertReset_values (s : State) (fresh : List Byte) :
    (s.assertReset fresh).phase = .pMagic0 ∧ (s.assertReset fresh).err = 0 ∧
      (s.assertReset fresh).status = .run ∧ (s.assertReset fresh).n = 0 ∧
      (s.assertReset fresh).ipos = 0 ∧ (s.assertReset fresh).opos = 0 ∧
      (s.assertReset fresh).trace = [] ∧ (s.assertReset fresh).out = [] := by
  simp

/-- Settles O17: the values after `assertReset` hold for every state, and `State.reset` is such a result. -/
theorem resetLeavesTheSpecifiedValues : Obligations.ResetLeavesTheSpecifiedValues := by
  have hreset := State.assertReset_values State.reset []
  rw [State.assertReset_reset_nil] at hreset
  exact ⟨State.assertReset_values, hreset⟩

end Sys2Proof.Machine
end

section
/-! The Segment Stream Parser (40_parser.md): the rules that turn one decoder answer into one step, the meanings of
the parser's instructions as equations on the state, and the obligations O1 to O7. -/

namespace Sys2Proof.Machine

/-! ### One step from the decoder's answer

Outside the full-buffer case of L_LIT the decoder alone decides a step (`fetch_of_not_full`). -/

section StepOfDecode

variable {s : State} (hf : s.phase ≠ .lLit ∨ s.full = false)
include hf

/-- A complete element runs its instruction. -/
theorem step_of_decode_ok {i : Instr} {rest : List Byte}
    (hd : decode s.phase (s.latched ++ s.item.toBytes) = .ok i rest) : step s = exec i s :=
  step_of_run (by rw [fetch_of_not_full hf, hd])

/-- An illegal encoding raises after its item has been taken. -/
theorem step_of_decode_illegal {e : ErrKind}
    (hd : decode s.phase (s.latched ++ s.item.toBytes) = .illegal e) :
    step s = .next (s.taken.raise e) :=
  step_of_moved (by rw [fetch_of_not_full hf, hd])

/-- The end of the stream inside an element raises and takes nothing. -/
theorem step_of_truncated_eos {e : ErrKind} (hi : s.item = .eos)
    (hd : decode s.phase s.latched = .truncated e) : step s = .next (s.raise e) :=
  step_of_moved (by simp only [fetch_of_not_full hf, hi, Item.toBytes, List.append_nil, hd])

/-- A byte that leaves its element unfinished is latched. -/
theorem step_of_truncated_byte {e : ErrKind} {x : Byte} {t : State} (hi : s.item = .byte x)
    (hd : decode s.phase (s.latched ++ [x]) = .truncated e) (hl : s.latch x = some t) :
    step s = .next t :=
  step_of_moved (by simp only [fetch_of_not_full hf, hi, Item.toBytes, hd, hl])

end StepOfDecode

/-! ### The tests the parser makes -/

theorem isMagicPair_iff (a b : Byte) : isMagicPair a b = true ↔ a = 0xFF ∧ b = 0xFF := by
  simp [isMagicPair]

theorem isNormal_iff (first last : Half) :
    isNormal first last = true ↔ first.toNat ≤ last.toNat := by
  simp [isNormal]

/-- The payload length does not wrap in 17 bits (R101, decision D16). -/
theorem payloadLength_toNat {first last : Half} (h : first.toNat ≤ last.toNat) :
    (payloadLength first last).toNat = last.toNat - first.toNat + 1 := by
  have := last.isLt
  simp only [payloadLength, BitVec.toNat_ofNat]
  omega

/-! ### What the formats FH, SH and CT decode to -/

theorem decodeFileHeader_of_magic : decodeFileHeader [0xFF, 0xFF] = .ok .fhdr [] := by decide

theorem decodeFileHeader_of_not_magic {a b : Byte} (h : a ≠ 0xFF ∨ b ≠ 0xFF) :
    decodeFileHeader [a, b] = .illegal .badMagic := by
  have hm : isMagicPair a b = false := by
    rw [Bool.eq_false_iff, ne_eq, isMagicPair_iff, not_and_or]
    exact h
  simp [decodeFileHeader, hm]

theorem decodeHeader_of_magic : decodeHeader [0xFF, 0xFF] = .ok .dummy [] := by decide

theorem decodeHeader_of_not_magic {a b : Byte} (h : ¬ (a = 0xFF ∧ b = 0xFF)) :
    decodeHeader [a, b] = .truncated .truncatedHeader := by
  rw [← isMagicPair_iff] at h
  simp [decodeHeader, h, decodeReal]

theorem decodeReal_of_normal {a b c d : Byte} (h : (u16 a b).toNat ≤ (u16 c d).toNat) :
    decodeReal [a, b, c, d] = .ok (.segn (u16 a b) (u16 c d)) [] := by
  rw [← isNormal_iff] at h
  simp [decodeReal, h]

/-- The header of a compressed segment is complete only with its compression-type byte. -/
theorem decodeReal_of_compressed {a b c d : Byte} (h : (u16 c d).toNat < (u16 a b).toNat) :
    decodeReal [a, b, c, d] = .truncated .truncatedHeader := by
  rw [← not_le, ← isNormal_iff] at h
  simp [decodeReal, h, decodeCompressed]

/-! ### The meanings of the parser's instructions, as equations on the state -/

theorem exec_eof (s : State) : exec .eof s = .next { s with phase := .done } := rfl

section ExecOfByte

variable {s : State} {x : Byte} (hi : s.item = .byte x)
include hi

theorem exec_fhdr_of_byte :
    exec .fhdr s =
      .next { s with ipos := s.ipos + 1, out := s.out ++ [0xFF, 0xFF], phase := .pFirst0 } := by
  simp [exec, execFhdr, State.taken_of_byte hi, State.outWrite, State.goto]

theorem exec_dummy_of_byte :
    exec .dummy s = .next { s with ipos := s.ipos + 1, fhi := 0xFF, phase := .pFirst0 } := by
  simp [exec, execDummy, State.taken_of_byte hi, State.goto]

theorem exec_segn_of_byte (first last : Half) :
    exec (.segn first last) s =
      .next { s with
        ipos := s.ipos + 1, lhi := hi8 last,
        out := s.out ++ [lo8 first, hi8 first, lo8 last, hi8 last],
        rem := payloadLength first last, phase := .pCopy } := by
  simp [exec, execSegn, State.taken_of_byte hi, State.outHeader, State.outWrite, State.goto]

theorem exec_payload_of_more (p : Byte) (h : 1 < s.rem.toNat) :
    exec (.payload p) s =
      .next { s with
        ipos := s.ipos + 1, out := s.out ++ [p], rem := s.rem - 1, phase := .pCopy } := by
  have h0 : s.rem ≠ 0 := by bv_omega
  have h1 : s.rem ≠ 1 := by bv_omega
  simp only [exec, execPayload, if_neg h0, if_neg h1, State.taken_of_byte hi, State.outWrite,
    State.goto]

theorem exec_payload_of_last (p : Byte) (h : s.rem.toNat = 1) :
    exec (.payload p) s =
      .next { s with
        ipos := s.ipos + 1, out := s.out ++ [p], rem := 0,
        trace := s.trace ++ [.normal s.first s.last], phase := .pFirst0 } := by
  have h1 : s.rem = 1 := BitVec.eq_of_toNat_eq h
  simp [exec, execPayload, h1, State.taken_of_byte hi, State.outWrite, State.record, State.goto]

theorem exec_segc_of_byte (first last : Half) (ctype : Byte) :
    exec (.segc first last ctype) s =
      .next { s with ipos := s.ipos + 1, ctype := ctype, dbuf := ⟨[]⟩, phase := .lToken } := by
  simp [exec, execSegc, State.taken_of_byte hi, Memory.empty, State.goto]

end ExecOfByte

/-! ### The steps of the file header (R130) -/

theorem step_pMagic0_eos {s : State} (hp : s.phase = .pMagic0) (hi : s.item = .eos) :
    step s = .next (s.raise .badMagic) :=
  step_of_truncated_eos (.inl (by simp [hp])) hi
    (by simp [hp, State.latched, decode, decodeFileHeader])

theorem step_pMagic0_byte {s : State} {x : Byte} (hp : s.phase = .pMagic0)
    (hi : s.item = .byte x) :
    step s = .next { s with ipos := s.ipos + 1, m0 := x, phase := .pMagic1 } :=
  step_of_truncated_byte (e := .badMagic) (.inl (by simp [hp])) hi
    (by simp [hp, State.latched, decode, decodeFileHeader])
    (by simp [State.latch, hp, State.taken_of_byte hi, State.goto])

theorem step_pMagic1_eos {s : State} (hp : s.phase = .pMagic1) (hi : s.item = .eos) :
    step s = .next (s.raise .badMagic) :=
  step_of_truncated_eos (.inl (by simp [hp])) hi
    (by simp [hp, State.latched, decode, decodeFileHeader])

theorem step_pMagic1_illegal {s : State} {x : Byte} (hp : s.phase = .pMagic1)
    (hi : s.item = .byte x) (h : s.m0 ≠ 0xFF ∨ x ≠ 0xFF) :
    step s = .next ({ s with ipos := s.ipos + 1 }.raise .badMagic) := by
  have hd : decode s.phase (s.latched ++ s.item.toBytes) = .illegal .badMagic := by
    simp [hp, hi, State.latched, Item.toBytes, decode, decodeFileHeader_of_not_magic h]
  rw [step_of_decode_illegal (.inl (by simp [hp])) hd, State.taken_of_byte hi]

theorem step_pMagic1_magic {s : State} (hp : s.phase = .pMagic1) (hi : s.item = .byte 0xFF)
    (hm : s.m0 = 0xFF) : step s = exec .fhdr s := by
  refine step_of_decode_ok (.inl (by simp [hp])) (rest := []) ?_
  simpa [hp, hi, hm, State.latched, Item.toBytes, decode] using decodeFileHeader_of_magic

/-- Settles O1: in each of the two phases, one lemma for each answer of `In()` and of the comparison. -/
theorem fileHeaderIsReadAndChecked : Obligations.FileHeaderIsReadAndChecked := fun _ =>
  ⟨step_pMagic0_eos, fun _ => step_pMagic0_byte, step_pMagic1_eos, fun _ => step_pMagic1_illegal,
    fun hp hi hm => ⟨step_pMagic1_magic hp hi hm, exec_fhdr_of_byte hi⟩⟩

/-! ### The steps of a header position (R131, R132) -/

theorem step_pFirst0_eos {s : State} (hp : s.phase = .pFirst0) (hi : s.item = .eos) :
    step s = exec .eof s :=
  step_of_decode_ok (.inl (by simp [hp])) (rest := [])
    (by simp [hp, hi, State.latched, Item.toBytes, decode, decodeHeader])

/-- Settles O2: at the end of the stream a header position decodes to EOF. -/
theorem endOfFileStopsCleanly : Obligations.EndOfFileStopsCleanly := fun s hp hi =>
  ⟨step_pFirst0_eos hp hi, exec_eof s⟩

theorem step_pFirst0_byte {s : State} {x : Byte} (hp : s.phase = .pFirst0)
    (hi : s.item = .byte x) :
    step s = .next { s with ipos := s.ipos + 1, flo := x, phase := .pFirst1 } :=
  step_of_truncated_byte (e := .truncatedHeader) (.inl (by simp [hp])) hi
    (by simp [hp, State.latched, decode, decodeHeader])
    (by simp [State.latch, hp, State.taken_of_byte hi, State.goto])

theorem step_pFirst1_eos {s : State} (hp : s.phase = .pFirst1) (hi : s.item = .eos) :
    step s = .next (s.raise .truncatedHeader) :=
  step_of_truncated_eos (.inl (by simp [hp])) hi
    (by simp [hp, State.latched, decode, decodeHeader])

theorem step_pFirst1_dummy {s : State} (hp : s.phase = .pFirst1) (hi : s.item = .byte 0xFF)
    (hm : s.flo = 0xFF) : step s = exec .dummy s := by
  refine step_of_decode_ok (.inl (by simp [hp])) (rest := []) ?_
  simpa [hp, hi, hm, State.latched, Item.toBytes, decode] using decodeHeader_of_magic

theorem step_pFirst1_real {s : State} {x : Byte} (hp : s.phase = .pFirst1)
    (hi : s.item = .byte x) (h : ¬ (s.flo = 0xFF ∧ x = 0xFF)) :
    step s = .next { s with ipos := s.ipos + 1, fhi := x, phase := .pLast0 } :=
  step_of_truncated_byte (.inl (by simp [hp])) hi
    (by simpa [hp, State.latched, decode] using decodeHeader_of_not_magic h)
    (by simp [State.latch, hp, State.taken_of_byte hi, State.goto])

/-- Settles O3: the pair in FLO and the new byte is `FF FF`, a complete DUMMY, or the unfinished first half of a
real header. -/
theorem dummyHeaderIsDropped : Obligations.DummyHeaderIsDropped := fun _ =>
  ⟨fun _ => step_pFirst0_byte, step_pFirst1_eos,
    fun hp hi hm => ⟨step_pFirst1_dummy hp hi hm, exec_dummy_of_byte hi⟩,
    fun _ => step_pFirst1_real⟩

/-! ### The steps of the second half of a header (R133, R134) -/

theorem step_pLast0_eos {s : State} (hp : s.phase = .pLast0) (hi : s.item = .eos) :
    step s = .next (s.raise .truncatedHeader) :=
  step_of_truncated_eos (.inl (by simp [hp])) hi (by simp [hp, State.latched, decode, decodeReal])

theorem step_pLast0_byte {s : State} {x : Byte} (hp : s.phase = .pLast0)
    (hi : s.item = .byte x) :
    step s = .next { s with ipos := s.ipos + 1, llo := x, phase := .pLast1 } :=
  step_of_truncated_byte (e := .truncatedHeader) (.inl (by simp [hp])) hi
    (by simp [hp, State.latched, decode, decodeReal])
    (by simp [State.latch, hp, State.taken_of_byte hi, State.goto])

theorem step_pLast1_eos {s : State} (hp : s.phase = .pLast1) (hi : s.item = .eos) :
    step s = .next (s.raise .truncatedHeader) :=
  step_of_truncated_eos (.inl (by simp [hp])) hi (by simp [hp, State.latched, decode, decodeReal])

theorem step_pLast1_normal {s : State} {x : Byte} (hp : s.phase = .pLast1)
    (hi : s.item = .byte x) (h : (u16 s.flo s.fhi).toNat ≤ (u16 s.llo x).toNat) :
    step s = exec (.segn (u16 s.flo s.fhi) (u16 s.llo x)) s := by
  refine step_of_decode_ok (.inl (by simp [hp])) (rest := []) ?_
  simpa [hp, hi, State.latched, Item.toBytes, decode] using decodeReal_of_normal h

theorem step_pLast1_compressed {s : State} {x : Byte} (hp : s.phase = .pLast1)
    (hi : s.item = .byte x) (h : (u16 s.llo x).toNat < (u16 s.flo s.fhi).toNat) :
    step s = .next { s with ipos := s.ipos + 1, lhi := x, phase := .pCtype } :=
  step_of_truncated_byte (.inl (by simp [hp])) hi
    (by simpa [hp, State.latched, decode] using decodeReal_of_compressed h)
    (by simp [State.latch, hp, State.taken_of_byte hi, State.goto])

/-- SEGN on the bytes as the stream gave them: splitting the assembled fields gives the four bytes back. -/
theorem exec_segn_of_header {s : State} {x : Byte} (hi : s.item = .byte x) :
    exec (.segn (u16 s.flo s.fhi) (u16 s.llo x)) s =
      .next { s with
        ipos := s.ipos + 1, lhi := x, out := s.out ++ [s.flo, s.fhi, s.llo, x],
        rem := payloadLength (u16 s.flo s.fhi) (u16 s.llo x), phase := .pCopy } := by
  simp [exec_segn_of_byte hi]

/-- Settles O4: the 16-bit comparison decides whether the fourth byte completes SEGN or is latched for SEGC. -/
theorem headerIsCompletedAndClassified : Obligations.HeaderIsCompletedAndClassified := fun _ =>
  ⟨step_pLast0_eos, fun _ => step_pLast0_byte, step_pLast1_eos,
    fun _ hp hi h => ⟨step_pLast1_normal hp hi h, _, exec_segn_of_header hi, rfl⟩,
    fun _ => step_pLast1_compressed⟩

/-- Settles O5: REM is the payload length, which 17 bits hold exactly because `first ≤ last`. -/
theorem normalSegmentHeaderIsCopied : Obligations.NormalSegmentHeaderIsCopied := fun _ _ _ hi h =>
  ⟨_, payloadLength_toNat h, exec_segn_of_header hi⟩

/-! ### The steps of the payload (R135) -/

theorem step_pCopy_eos {s : State} (hp : s.phase = .pCopy) (hi : s.item = .eos) :
    step s = .next (s.raise .truncatedSegment) :=
  step_of_truncated_eos (.inl (by simp [hp])) hi
    (by simp [hp, State.latched, decode, decodePayload])

theorem step_pCopy_byte {s : State} {x : Byte} (hp : s.phase = .pCopy) (hi : s.item = .byte x) :
    step s = exec (.payload x) s :=
  step_of_decode_ok (.inl (by simp [hp])) (rest := [])
    (by simp [hp, hi, State.latched, Item.toBytes, decode, decodePayload])

/-- Settles O6: every byte in P_COPY runs PAYLOAD, whose two cases are REM above 1 and REM = 1. -/
theorem payloadByteIsCopied : Obligations.PayloadByteIsCopied := fun s =>
  ⟨step_pCopy_eos,
    fun x hp hi h =>
      have hrem : (s.rem - 1).toNat = s.rem.toNat - 1 := by bv_omega
      ⟨step_pCopy_byte hp hi, _, hrem, exec_payload_of_more hi x h⟩,
    fun x hp hi h => ⟨step_pCopy_byte hp hi, exec_payload_of_last hi x h⟩⟩

/-! ### The step of the compression-type byte (R136) -/

theorem step_pCtype_eos {s : State} (hp : s.phase = .pCtype) (hi : s.item = .eos) :
    step s = .next (s.raise .truncatedHeader) :=
  step_of_truncated_eos (.inl (by simp [hp])) hi
    (by simp [hp, State.latched, decode, decodeCompressed])

theorem step_pCtype_byte {s : State} {x : Byte} (hp : s.phase = .pCtype) (hi : s.item = .byte x) :
    step s = exec (.segc s.first s.last x) s :=
  step_of_decode_ok (.inl (by simp [hp])) (rest := [])
    (by simp [hp, hi, State.latched, Item.toBytes, decode, decodeCompressed, State.first,
      State.last])

/-- Settles O7: the fifth byte completes SEGC whatever its value, and SEGC reads no earlier CTYPE or DBUF. -/
theorem compressedSegmentStartsTheDecoder : Obligations.CompressedSegmentStartsTheDecoder := fun s =>
  ⟨fun _ => step_pLast1_compressed, step_pCtype_eos,
    fun x hp hi => ⟨step_pCtype_byte hp hi, exec_segc_of_byte hi s.first s.last x⟩⟩

end Sys2Proof.Machine
end

section
/-! The LZ4 Block Decoder (41_lz4_decoder.md): the tests it makes, the meanings of its instructions as equations on
the state, its steps, and the obligations O8, O9, O10, O12, O13 and O14. -/

namespace Sys2Proof.Machine

/-! ### The tests the decoder makes -/

/-- LCODE announces extension bytes (R162, R165). -/
theorem highNibble_eq_extEsc_iff (x : Byte) :
    highNibble x = Config.extEsc ↔ x.toNat / 16 = 15 := by
  rw [← BitVec.toNat_inj, highNibble_toNat]
  rfl

/-- The sequence has no literals (R162). -/
theorem highNibble_eq_zero_iff (x : Byte) : highNibble x = 0 ↔ x.toNat / 16 = 0 := by
  rw [← BitVec.toNat_inj, highNibble_toNat]
  rfl

/-- MCODE announces extension bytes (R168). -/
theorem lowNibble_eq_extEsc_iff (x : Byte) :
    lowNibble x = Config.extEsc ↔ x.toNat % 16 = 15 := by
  rw [← BitVec.toNat_inj, lowNibble_toNat]
  rfl

theorem offsetLegal_iff (d : Half) (n : Nat) :
    offsetLegal d n = true ↔ 1 ≤ d.toNat ∧ d.toNat ≤ n := by
  simp [offsetLegal]

theorem State.full_of_decCap_eq {s : State} (h : s.cfg.decCap = some s.n) : s.full = true :=
  s.full_iff.mpr ⟨s.n, h, le_rfl⟩

theorem State.not_full_of_room {s : State} (h : ∀ c, s.cfg.decCap = some c → s.n < c) :
    s.full = false := by
  rw [Bool.eq_false_iff, ne_eq, State.full_iff]
  rintro ⟨c, hc, hle⟩
  exact absurd (h c hc) (not_lt.mpr hle)

/-- A legal offset points at a byte that exists (R79, R171). -/
theorem State.exists_backReference {s : State} (hwf : s.dbuf.wf) (h1 : 1 ≤ s.offs.toNat)
    (hn : s.offs.toNat ≤ s.n) :
    ∃ b, s.dbuf.read (s.n - s.offs.toNat) = some b ∧ s.backReference = some b := by
  have hlt : s.n - s.offs.toNat < s.dbuf.size := Nat.sub_lt (h1.trans hn) h1
  obtain ⟨b, hb⟩ := Memory.read_isSome hwf hlt
  exact ⟨b, hb, by rw [State.backReference, if_pos hn, hb]⟩

/-! ### The meanings of the decoder's instructions, as equations on the state -/

theorem exec_lit_of_full {s : State} (v : Byte) (h : s.full = true) :
    exec (.lit v) s = .next (s.raise .capacityFault) := by
  simp [exec, execLit, h]

theorem exec_matchCopy_of_full {s : State} (h : s.full = true) :
    exec .matchCopy s = .next (s.raise .capacityFault) := by
  simp [exec, execMatchCopy, h]

theorem exec_matchCopy_of_backReference {s : State} {b : Byte} (hf : s.full = false)
    (hm : 1 ≤ s.mlen) (hb : s.backReference = some b) :
    exec .matchCopy s =
      .next { s with
        dbuf := s.dbuf.append b, mlen := s.mlen - 1,
        phase := if s.mlen - 1 = 0 then .lToken else .lMatch } := by
  have h0 : s.mlen ≠ 0 := Nat.one_le_iff_ne_zero.mp hm
  simp [exec, execMatchCopy, hf, h0, hb, State.dbufAppend, State.goto, Nat.sub_eq_iff_eq_add hm]

section ExecOfByte

variable {s : State} {x : Byte} (hi : s.item = .byte x)
include hi

/-- TOKEN on the two nibbles of the byte keeps the byte itself. -/
theorem exec_token_of_byte :
    exec (.token (highNibble x) (lowNibble x)) s =
      .next { s with
        ipos := s.ipos + 1, token := x, litlen := x.toNat / 16,
        phase :=
          if x.toNat / 16 = 15 then .lLitext else if 0 < x.toNat / 16 then .lLit else .lOff0 } := by
  simp only [exec, execToken, State.taken_of_byte hi, State.goto, tokenByte_nibbles,
    highNibble_toNat, highNibble_eq_extEsc_iff, highNibble_eq_zero_iff, Nat.pos_iff_ne_zero,
    ne_eq, ite_not]

theorem exec_lextC_of_byte :
    exec .lextC s =
      .next { s with ipos := s.ipos + 1, litlen := s.litlen + 255, phase := .lLitext } := by
  simp [exec, execLextC, State.extendLiteral, State.taken_of_byte hi, State.goto]

theorem exec_lextE_of_byte (e : Byte) :
    exec (.lextE e) s =
      .next { s with ipos := s.ipos + 1, litlen := s.litlen + e.toNat, phase := .lLit } := by
  simp [exec, execLextE, State.extendLiteral, State.taken_of_byte hi, State.goto]

theorem exec_lit_of_byte (v : Byte) (hf : s.full = false) (hl : 1 ≤ s.litlen) :
    exec (.lit v) s =
      .next { s with
        ipos := s.ipos + 1, dbuf := s.dbuf.append v, litlen := s.litlen - 1,
        phase := if s.litlen - 1 = 0 then .lOff0 else .lLit } := by
  have h0 : s.litlen ≠ 0 := Nat.one_le_iff_ne_zero.mp hl
  simp [exec, execLit, hf, h0, State.taken_of_byte hi, State.dbufAppend, State.goto,
    Nat.sub_eq_iff_eq_add hl]

/-- An illegal offset raises after its second byte has been taken (R256). -/
theorem exec_moff_of_illegal {d : Half} (h : d.toNat = 0 ∨ s.n < d.toNat) :
    exec (.moff d) s = .next ({ s with ipos := s.ipos + 1 }.raise .corruptBlock) := by
  have hl : ¬ offsetLegal d s.n = true := by
    rw [offsetLegal_iff]
    omega
  simp [exec, execMoff, hl, State.taken_of_byte hi]

theorem exec_moff_of_legal {d : Half} (h1 : 1 ≤ d.toNat) (hn : d.toNat ≤ s.n) :
    exec (.moff d) s =
      .next { s with
        ipos := s.ipos + 1, offs := d, mlen := 4 + s.token.toNat % 16,
        phase := if s.token.toNat % 16 = 15 then .lMext else .lMatch } := by
  have hl : offsetLegal d s.n = true := (offsetLegal_iff d s.n).mpr ⟨h1, hn⟩
  simp only [exec, execMoff, if_pos hl, State.taken_of_byte hi, State.goto, State.mcode,
    startMatchLength, lowNibble_toNat, lowNibble_eq_extEsc_iff]

theorem exec_mextC_of_byte :
    exec .mextC s =
      .next { s with ipos := s.ipos + 1, mlen := s.mlen + 255, phase := .lMext } := by
  simp [exec, execMextC, State.extendMatch, State.taken_of_byte hi, State.goto]

theorem exec_mextE_of_byte (e : Byte) :
    exec (.mextE e) s =
      .next { s with ipos := s.ipos + 1, mlen := s.mlen + e.toNat, phase := .lMatch } := by
  simp [exec, execMextE, State.extendMatch, State.taken_of_byte hi, State.goto]

end ExecOfByte

/-! ### The step of the token (R162) -/

theorem step_lToken_eos {s : State} (hp : s.phase = .lToken) (hi : s.item = .eos) :
    step s = .next (s.raise .truncatedBlock) :=
  step_of_truncated_eos (.inl (by simp [hp])) hi
    (by simp [hp, State.latched, decode, decodeToken])

theorem step_lToken_byte {s : State} {x : Byte} (hp : s.phase = .lToken)
    (hi : s.item = .byte x) : step s = exec (.token (highNibble x) (lowNibble x)) s :=
  step_of_decode_ok (.inl (by simp [hp])) (rest := [])
    (by simp [hp, hi, State.latched, Item.toBytes, decode, decodeToken])

/-- Settles O8: every byte is a complete TOKEN, and the tests on LCODE are tests on the byte's high half. -/
theorem tokenStartsASequence : Obligations.TokenStartsASequence := fun _ =>
  ⟨step_lToken_eos, fun _ hp hi => ⟨step_lToken_byte hp hi, exec_token_of_byte hi⟩⟩

/-! ### The steps of a literal-length extension (R163) -/

theorem step_lLitext_eos {s : State} (hp : s.phase = .lLitext) (hi : s.item = .eos) :
    step s = .next (s.raise .truncatedBlock) :=
  step_of_truncated_eos (.inl (by simp [hp])) hi
    (by simp [hp, State.latched, decode, decodeLitExt])

theorem step_lLitext_byte {s : State} {x : Byte} (hp : s.phase = .lLitext)
    (hi : s.item = .byte x) : step s = exec (lextOf x) s :=
  step_of_decode_ok (.inl (by simp [hp])) (rest := [])
    (by simp [hp, hi, State.latched, Item.toBytes, decode, decodeLitExt, lextOf])

/-- Settles O9: the byte of the step is LEXT.C exactly when it is 255, else LEXT.E. -/
theorem literalLengthIsExtended : Obligations.LiteralLengthIsExtended := fun _ =>
  ⟨step_lLitext_eos, fun hp hi => ⟨step_lLitext_byte hp hi, exec_lextC_of_byte hi⟩,
    fun x hp hi hx =>
      have hlext : lextOf x = .lextE x := if_neg hx
      ⟨hlext ▸ step_lLitext_byte hp hi, exec_lextE_of_byte hi x⟩⟩

/-! ### The steps of a literal byte (R164) -/

theorem step_lLit_full {s : State} (hp : s.phase = .lLit) (hf : s.full = true) :
    step s = .next (s.raise .capacityFault) :=
  step_of_moved (fetch_of_full hp hf)

theorem step_lLit_eos {s : State} (hp : s.phase = .lLit) (hf : s.full = false)
    (hi : s.item = .eos) : step s = .next (s.raise .truncatedBlock) :=
  step_of_truncated_eos (.inr hf) hi (by simp [hp, State.latched, decode, decodeLit])

theorem step_lLit_byte {s : State} {x : Byte} (hp : s.phase = .lLit) (hf : s.full = false)
    (hi : s.item = .byte x) : step s = exec (.lit x) s :=
  step_of_decode_ok (.inr hf) (rest := [])
    (by simp [hp, hi, State.latched, Item.toBytes, decode, decodeLit])

/-- Settles O10: the capacity test comes before the item in the fetch as in LIT; with room, the item decides. -/
theorem literalByteIsAppended : Obligations.LiteralByteIsAppended := fun _ =>
  ⟨fun hp hc => step_lLit_full hp (State.full_of_decCap_eq hc),
    fun x hc => exec_lit_of_full x (State.full_of_decCap_eq hc),
    fun hp hroom hi => step_lLit_eos hp (State.not_full_of_room hroom) hi,
    fun x hp hroom hi hl =>
      have hf := State.not_full_of_room hroom
      ⟨step_lLit_byte hp hf hi, exec_lit_of_byte hi x hf hl⟩⟩

/-! ### The steps of the match offset (R168) -/

theorem step_lOff0_byte {s : State} {x : Byte} (hp : s.phase = .lOff0) (hi : s.item = .byte x) :
    step s = .next { s with ipos := s.ipos + 1, olo := x, phase := .lOff1 } :=
  step_of_truncated_byte (e := .truncatedBlock) (.inl (by simp [hp])) hi
    (by simp [hp, State.latched, decode, decodeOffset])
    (by simp [State.latch, hp, State.taken_of_byte hi, State.goto])

theorem step_lOff1_eos {s : State} (hp : s.phase = .lOff1) (hi : s.item = .eos) :
    step s = .next (s.raise .truncatedBlock) :=
  step_of_truncated_eos (.inl (by simp [hp])) hi
    (by simp [hp, State.latched, decode, decodeOffset])

theorem step_lOff1_byte {s : State} {x : Byte} (hp : s.phase = .lOff1) (hi : s.item = .byte x) :
    step s = exec (.moff (u16 s.olo x)) s :=
  step_of_decode_ok (.inl (by simp [hp])) (rest := [])
    (by simp [hp, hi, State.latched, Item.toBytes, decode, decodeOffset])

/-- Settles O12: the second byte completes MOFF whatever the offset; MOFF alone compares it with 0 and N. -/
theorem matchOffsetIsReadAndChecked : Obligations.MatchOffsetIsReadAndChecked := fun _ =>
  ⟨fun _ => step_lOff0_byte, step_lOff1_eos,
    fun _ hp hi h => ⟨step_lOff1_byte hp hi, exec_moff_of_illegal hi h⟩,
    fun _ hp hi h1 hn => ⟨step_lOff1_byte hp hi, exec_moff_of_legal hi h1 hn⟩⟩

/-! ### The steps of a match-length extension (R169) -/

theorem step_lMext_eos {s : State} (hp : s.phase = .lMext) (hi : s.item = .eos) :
    step s = .next (s.raise .truncatedBlock) :=
  step_of_truncated_eos (.inl (by simp [hp])) hi
    (by simp [hp, State.latched, decode, decodeMatchExt])

theorem step_lMext_byte {s : State} {x : Byte} (hp : s.phase = .lMext) (hi : s.item = .byte x) :
    step s = exec (mextOf x) s :=
  step_of_decode_ok (.inl (by simp [hp])) (rest := [])
    (by simp [hp, hi, State.latched, Item.toBytes, decode, decodeMatchExt, mextOf])

/-- Settles O13: the byte of the step is MEXT.C exactly when it is 255, else MEXT.E. -/
theorem matchLengthIsExtended : Obligations.MatchLengthIsExtended := fun _ =>
  ⟨step_lMext_eos, fun hp hi => ⟨step_lMext_byte hp hi, exec_mextC_of_byte hi⟩,
    fun x hp hi hx =>
      have hmext : mextOf x = .mextE x := if_neg hx
      ⟨hmext ▸ step_lMext_byte hp hi, exec_mextE_of_byte hi x⟩⟩

/-! ### The step of a match byte (R171) -/

/-- In L_MATCH the item at the port is not looked at. -/
theorem step_lMatch {s : State} (hp : s.phase = .lMatch) : step s = exec .matchCopy s :=
  step_of_decode_ok (.inl (by simp [hp])) (rest := s.item.toBytes)
    (by simp [hp, State.latched, decode])

/-- Settles O14: with room and a legal offset the byte `N - OFFS` exists, so MATCH appends it. -/
theorem matchByteIsCopied : Obligations.MatchByteIsCopied := fun _ =>
  ⟨step_lMatch, fun hc => exec_matchCopy_of_full (State.full_of_decCap_eq hc),
    fun hroom hwf hm h1 hn =>
      have ⟨b, hread, hb⟩ := State.exists_backReference hwf h1 hn
      ⟨b, hread, exec_matchCopy_of_backReference (State.not_full_of_room hroom) hm hb⟩⟩

end Sys2Proof.Machine
end

section
/-! The segment emitter (42_emit.md): the recomputed `last` as a number, the meanings of EMITH and EMITD as equations on
the state, their steps, and the obligations O15 and O16. -/

namespace Sys2Proof.Machine

/-! ### The recomputed `last` -/

/-- The sum is taken in the integers, so it may be -1 before the reduction (R10, R201). -/
theorem recomputedLast_toNat_eq_emod (first : Half) (n : Nat) :
    ((recomputedLast first n).toNat : Int) = ((first.toNat : Int) + n - 1) % 65536 := by
  have hnonneg : 0 ≤ ((first.toNat : Int) + n - 1) % 65536 := Int.emod_nonneg _ (by decide)
  rw [recomputedLast, BitVec.toNat_ofInt]
  exact Int.toNat_of_nonneg hnonneg

/-! ### The meanings of the emitter's instructions, as equations on the state -/

/-- An empty segment is complete after its header (row 44). -/
theorem exec_emith_of_empty {s : State} (hn : s.n = 0) :
    exec .emith s =
      .next { s with
        out := s.out ++
          [s.flo, s.fhi, lo8 (recomputedLast s.first s.n), hi8 (recomputedLast s.first s.n)],
        trace := s.trace ++ [s.compressedRecord], phase := .pFirst0 } := by
  simp [exec, execEmith, hn, State.outHeader, State.outWrite, State.record, State.goto]

/-- A segment with data goes on to its first byte (row 45). -/
theorem exec_emith_of_nonempty {s : State} (hn : s.n ≠ 0) :
    exec .emith s =
      .next { s with
        out := s.out ++
          [s.flo, s.fhi, lo8 (recomputedLast s.first s.n), hi8 (recomputedLast s.first s.n)],
        eidx := 0, phase := .eData } := by
  simp [exec, execEmith, hn, State.outHeader, State.outWrite, State.goto]

section ExecEmitd

variable {s : State} {b : Byte} (hb : s.dbuf.read s.eidx = some b)
include hb

/-- A byte that others follow (row 46). -/
theorem exec_emitd_of_more (hlast : s.eidx + 1 ≠ s.n) :
    exec .emitd s =
      .next { s with out := s.out ++ [b], eidx := s.eidx + 1, phase := .eData } := by
  simp [exec, execEmitd, hb, hlast, State.outWrite, State.goto]

/-- The last byte completes the segment (row 47). -/
theorem exec_emitd_of_last (hlast : s.eidx + 1 = s.n) :
    exec .emitd s =
      .next { s with
        out := s.out ++ [b], eidx := s.eidx + 1, trace := s.trace ++ [s.compressedRecord],
        phase := .pFirst0 } := by
  simp [exec, execEmitd, hb, hlast, State.outWrite, State.record, State.goto]

end ExecEmitd

/-! ### The step of the header (R201) -/

/-- In E_HDR the item at the port is not looked at. -/
theorem step_eHdr {s : State} (hp : s.phase = .eHdr) : step s = exec .emith s :=
  step_of_decode_ok (.inl (by simp [hp])) (rest := s.item.toBytes)
    (by simp [hp, State.latched, decode])

/-- Settles O15: `v` is the recomputed `last`, and N = 0 decides which of EMITH's two equations applies. -/
theorem decodedHeaderIsEmitted : Obligations.DecodedHeaderIsEmitted := by
  intro s
  refine ⟨step_eHdr, recomputedLast s.first s.n, recomputedLast_toNat_eq_emod s.first s.n, ?_⟩
  split
  case isTrue hn => rw [exec_emith_of_empty hn, State.compressedRecord, hn, State.first]
  case isFalse hn => exact exec_emith_of_nonempty hn

/-! ### The step of a data byte (R203) -/

/-- In E_DATA the item at the port is not looked at. -/
theorem step_eData {s : State} (hp : s.phase = .eData) : step s = exec .emitd s :=
  step_of_decode_ok (.inl (by simp [hp])) (rest := s.item.toBytes)
    (by simp [hp, State.latched, decode])

/-- Settles O16: below N the byte DBUF[EIDX] exists in a canonical buffer, and the record's `last` is EMITH's. -/
theorem decodedByteIsEmitted : Obligations.DecodedByteIsEmitted := by
  refine fun s => ⟨step_eData, fun hwf hlt => ?_⟩
  obtain ⟨b, hb⟩ := Memory.read_isSome hwf hlt
  refine ⟨b, recomputedLast s.first s.n, hb, recomputedLast_toNat_eq_emod s.first s.n, ?_⟩
  split
  case isTrue hlast => exact exec_emitd_of_last hb hlast
  case isFalse hlast => exact exec_emitd_of_more hb hlast

end Sys2Proof.Machine
end

section
/-! The transition table (43_control_and_arithmetic.md R220): where the model stops because no row applies, the
step of each phase against the rows of that phase, and the obligation O41. -/

namespace Sys2Proof.Machine

/-! ### The meanings that stop

A counter at 0 or a byte of DBUF that does not exist: there the table has no row either (R221). -/

theorem exec_payload_of_rem_zero {s : State} (p : Byte) (h : s.rem.toNat = 0) :
    exec (.payload p) s = .fault .counterZero := by
  have h0 : s.rem = 0 := BitVec.eq_of_toNat_eq h
  simp [exec, execPayload, h0]

theorem exec_lit_of_litlen_zero {s : State} (v : Byte) (hf : s.full = false) (h : s.litlen = 0) :
    exec (.lit v) s = .fault .counterZero := by
  simp [exec, execLit, hf, h]

theorem exec_matchCopy_of_mlen_zero {s : State} (hf : s.full = false) (h : s.mlen = 0) :
    exec .matchCopy s = .fault .counterZero := by
  simp [exec, execMatchCopy, hf, h]

theorem exec_matchCopy_of_no_backReference {s : State} (hf : s.full = false)
    (hb : s.backReference = none) : ∃ f, exec .matchCopy s = .fault f := by
  by_cases h : s.mlen = 0
  · exact ⟨_, exec_matchCopy_of_mlen_zero hf h⟩
  · exact ⟨.dbufRead, by simp [exec, execMatchCopy, hf, h, hb]⟩

theorem exec_emitd_of_no_byte {s : State} (h : s.dbuf.read s.eidx = none) :
    exec .emitd s = .fault .dbufRead := by
  simp [exec, execEmitd, h]

/-! ### The steps of the remaining phases -/

/-- TERM_RULE has one value (decision D1), so BLKEND has one effect (row 32). -/
theorem exec_blkend (s : State) : exec .blkend s = .next { s with phase := .eHdr } := by
  simp [exec, execBlkend, State.goto]

theorem step_lOff0_eos {s : State} (hp : s.phase = .lOff0) (hi : s.item = .eos) :
    step s = exec .blkend s :=
  step_of_decode_ok (.inl (by simp [hp])) (rest := [])
    (by simp [hp, hi, State.latched, Item.toBytes, decode, decodeOffset])

/-- DONE and FAULT have no outgoing transition (R22, R258). -/
theorem step_of_stopped {s : State} (hp : s.phase = .done ∨ s.phase = .fault) :
    step s = .fault .stopped := by
  have hd : decode s.phase (s.latched ++ s.item.toBytes) = .noElement := by
    rcases hp with hp | hp <;> simp [hp, decode]
  have hf : s.phase ≠ .lLit := by rcases hp with hp | hp <;> simp [hp]
  simp [step, fetch_of_not_full (.inl hf), hd]

/-! ### A step against its row -/

/-- The outcome of a step that does what the table says: the state of the row that applies, or a stop where
none does. -/
def OutcomeOfRow : Option (Nat × State) → Host.Outcome State Fault Refusal → Prop
  | some (_, t), o => o = .next t
  | none, o => ∃ f, o = .fault f

@[simp] theorem outcomeOfRow_some (k : Nat) (t : State) (o : Host.Outcome State Fault Refusal) :
    OutcomeOfRow (some (k, t)) o ↔ o = .next t := Iff.rfl

@[simp] theorem outcomeOfRow_none (o : Host.Outcome State Fault Refusal) :
    OutcomeOfRow none o ↔ ∃ f, o = .fault f := Iff.rfl

section RowsByPhase

variable {s : State}

/-! #### The parser: rows 1 to 20 -/

theorem outcomeOfRow_pMagic0 (hp : s.phase = .pMagic0) : OutcomeOfRow (tableRow s) (step s) := by
  cases hi : s.item with
  | eos => simp [tableRow, hp, hi, step_pMagic0_eos hp hi]
  | byte x => simp [tableRow, hp, hi, step_pMagic0_byte hp hi, State.taken_of_byte hi]

theorem outcomeOfRow_pMagic1 (hp : s.phase = .pMagic1) : OutcomeOfRow (tableRow s) (step s) := by
  cases hi : s.item with
  | eos => simp [tableRow, hp, hi, step_pMagic1_eos hp hi]
  | byte x =>
    by_cases h : s.m0 ≠ 0xFF ∨ x ≠ 0xFF
    · simp only [tableRow, hp, hi, if_pos h, outcomeOfRow_some, step_pMagic1_illegal hp hi h,
        State.taken_of_byte hi]
    · obtain ⟨hm, rfl⟩ : s.m0 = 0xFF ∧ x = 0xFF := by simpa using h
      simp [tableRow, hp, hi, hm, step_pMagic1_magic hp hi hm, exec_fhdr_of_byte hi,
        State.taken_of_byte hi]

theorem outcomeOfRow_pFirst0 (hp : s.phase = .pFirst0) : OutcomeOfRow (tableRow s) (step s) := by
  cases hi : s.item with
  | eos => simp [tableRow, hp, hi, step_pFirst0_eos hp hi, exec_eof]
  | byte x => simp [tableRow, hp, hi, step_pFirst0_byte hp hi, State.taken_of_byte hi]

theorem outcomeOfRow_pFirst1 (hp : s.phase = .pFirst1) : OutcomeOfRow (tableRow s) (step s) := by
  cases hi : s.item with
  | eos => simp [tableRow, hp, hi, step_pFirst1_eos hp hi]
  | byte x =>
    by_cases h : s.flo = 0xFF ∧ x = 0xFF
    · obtain ⟨hm, rfl⟩ := h
      simp [tableRow, hp, hi, hm, step_pFirst1_dummy hp hi hm, exec_dummy_of_byte hi,
        State.taken_of_byte hi]
    · simp only [tableRow, hp, hi, if_neg h, outcomeOfRow_some, step_pFirst1_real hp hi h,
        State.taken_of_byte hi]

theorem outcomeOfRow_pLast0 (hp : s.phase = .pLast0) : OutcomeOfRow (tableRow s) (step s) := by
  cases hi : s.item with
  | eos => simp [tableRow, hp, hi, step_pLast0_eos hp hi]
  | byte x => simp [tableRow, hp, hi, step_pLast0_byte hp hi, State.taken_of_byte hi]

theorem outcomeOfRow_pLast1 (hp : s.phase = .pLast1) : OutcomeOfRow (tableRow s) (step s) := by
  cases hi : s.item with
  | eos => simp [tableRow, hp, hi, step_pLast1_eos hp hi]
  | byte x =>
    rcases le_or_gt (u16 s.flo s.fhi).toNat (u16 s.llo x).toNat with h | h
    · simp [tableRow, hp, hi, h, step_pLast1_normal hp hi h, exec_segn_of_header hi,
        payloadLength, State.taken_of_byte hi]
    · simp [tableRow, hp, hi, not_le.mpr h, step_pLast1_compressed hp hi h,
        State.taken_of_byte hi]

theorem outcomeOfRow_pCopy (hp : s.phase = .pCopy) : OutcomeOfRow (tableRow s) (step s) := by
  cases hi : s.item with
  | eos => simp [tableRow, hp, hi, step_pCopy_eos hp hi]
  | byte x =>
    rw [step_pCopy_byte hp hi]
    rcases lt_trichotomy s.rem.toNat 1 with h | h | h
    · have h0 : s.rem.toNat = 0 := Nat.lt_one_iff.mp h
      simp [tableRow, hp, hi, h0, exec_payload_of_rem_zero x h0]
    · simp [tableRow, hp, hi, h, exec_payload_of_last hi x h, State.taken_of_byte hi]
    · simp [tableRow, hp, hi, h, exec_payload_of_more hi x h, State.taken_of_byte hi]

theorem outcomeOfRow_pCtype (hp : s.phase = .pCtype) : OutcomeOfRow (tableRow s) (step s) := by
  cases hi : s.item with
  | eos => simp [tableRow, hp, hi, step_pCtype_eos hp hi]
  | byte x =>
    simp [tableRow, hp, hi, step_pCtype_byte hp hi, exec_segc_of_byte hi, State.taken_of_byte hi]

/-! #### The LZ4 block decoder: rows 21 to 43 -/

theorem outcomeOfRow_lToken (hp : s.phase = .lToken) : OutcomeOfRow (tableRow s) (step s) := by
  cases hi : s.item with
  | eos => simp [tableRow, hp, hi, step_lToken_eos hp hi]
  | byte x =>
    rw [step_lToken_byte hp hi, exec_token_of_byte hi]
    by_cases h15 : highNibble x = 15#4
    · have hx : x.toNat / 16 = 15 := (highNibble_eq_extEsc_iff x).mp h15
      simp [tableRow, hp, hi, h15, hx, State.taken_of_byte hi]
    · have hx : x.toNat / 16 ≠ 15 := mt (highNibble_eq_extEsc_iff x).mpr h15
      rcases Nat.eq_zero_or_pos (x.toNat / 16) with h0 | hpos
      · simp [tableRow, hp, hi, h15, highNibble_toNat, h0, State.taken_of_byte hi]
      · simp [tableRow, hp, hi, h15, highNibble_toNat, hx, hpos, Nat.one_le_iff_ne_zero,
          hpos.ne', State.taken_of_byte hi]

theorem outcomeOfRow_lLitext (hp : s.phase = .lLitext) : OutcomeOfRow (tableRow s) (step s) := by
  cases hi : s.item with
  | eos => simp [tableRow, hp, hi, step_lLitext_eos hp hi]
  | byte x =>
    rw [step_lLitext_byte hp hi]
    by_cases h : x = 255#8
    · simp [tableRow, hp, hi, h, lextOf, exec_lextC_of_byte hi, State.taken_of_byte hi]
    · simp [tableRow, hp, hi, h, lextOf, exec_lextE_of_byte hi, State.taken_of_byte hi]

theorem outcomeOfRow_lLit (hp : s.phase = .lLit) : OutcomeOfRow (tableRow s) (step s) := by
  cases hf : s.full with
  | true => simp [tableRow, hp, hf, step_lLit_full hp hf]
  | false =>
    cases hi : s.item with
    | eos => simp [tableRow, hp, hf, hi, step_lLit_eos hp hf hi]
    | byte x =>
      rw [step_lLit_byte hp hf hi]
      rcases lt_trichotomy s.litlen 1 with h | h | h
      · have h0 : s.litlen = 0 := Nat.lt_one_iff.mp h
        simp [tableRow, hp, hf, hi, h0, exec_lit_of_litlen_zero x hf h0]
      · simp [tableRow, hp, hf, hi, h, exec_lit_of_byte hi x hf h.ge, State.taken_of_byte hi]
      · simp [tableRow, hp, hf, hi, h, exec_lit_of_byte hi x hf h.le, State.taken_of_byte hi,
          Nat.sub_ne_zero_of_lt h]

theorem outcomeOfRow_lOff0 (hp : s.phase = .lOff0) : OutcomeOfRow (tableRow s) (step s) := by
  cases hi : s.item with
  | eos => simp [tableRow, hp, hi, step_lOff0_eos hp hi, exec_blkend]
  | byte x => simp [tableRow, hp, hi, step_lOff0_byte hp hi, State.taken_of_byte hi]

theorem outcomeOfRow_lOff1 (hp : s.phase = .lOff1) : OutcomeOfRow (tableRow s) (step s) := by
  cases hi : s.item with
  | eos => simp [tableRow, hp, hi, step_lOff1_eos hp hi]
  | byte x =>
    rw [step_lOff1_byte hp hi]
    by_cases h : (u16 s.olo x).toNat = 0 ∨ s.n < (u16 s.olo x).toNat
    · simp only [tableRow, hp, hi, if_pos h, outcomeOfRow_some, exec_moff_of_illegal hi h,
        State.taken_of_byte hi]
    · have ⟨h1, hn⟩ : 1 ≤ (u16 s.olo x).toNat ∧ (u16 s.olo x).toNat ≤ s.n := by omega
      rw [exec_moff_of_legal hi h1 hn]
      by_cases h15 : lowNibble s.token = 15#4
      · have hm : s.token.toNat % 16 = 15 := (lowNibble_eq_extEsc_iff s.token).mp h15
        simp [tableRow, hp, hi, h, h15, hm, State.taken_of_byte hi]
      · have hm : s.token.toNat % 16 ≠ 15 := mt (lowNibble_eq_extEsc_iff s.token).mpr h15
        simp [tableRow, hp, hi, h, h15, hm, lowNibble_toNat, State.taken_of_byte hi]

theorem outcomeOfRow_lMext (hp : s.phase = .lMext) : OutcomeOfRow (tableRow s) (step s) := by
  cases hi : s.item with
  | eos => simp [tableRow, hp, hi, step_lMext_eos hp hi]
  | byte x =>
    rw [step_lMext_byte hp hi]
    by_cases h : x = 255#8
    · simp [tableRow, hp, hi, h, mextOf, exec_mextC_of_byte hi, State.taken_of_byte hi]
    · simp [tableRow, hp, hi, h, mextOf, exec_mextE_of_byte hi, State.taken_of_byte hi]

theorem outcomeOfRow_lMatch (hp : s.phase = .lMatch) : OutcomeOfRow (tableRow s) (step s) := by
  rw [step_lMatch hp]
  cases hf : s.full with
  | true => simp [tableRow, hp, hf, exec_matchCopy_of_full hf]
  | false =>
    cases hb : s.backReference with
    | none => simp [tableRow, hp, hf, hb, exec_matchCopy_of_no_backReference hf hb]
    | some b =>
      rcases lt_trichotomy s.mlen 1 with h | h | h
      · have h0 : s.mlen = 0 := Nat.lt_one_iff.mp h
        simp [tableRow, hp, hf, hb, h0, exec_matchCopy_of_mlen_zero hf h0]
      · simp [tableRow, hp, hf, hb, h, exec_matchCopy_of_backReference hf h.ge hb]
      · simp [tableRow, hp, hf, hb, h, exec_matchCopy_of_backReference hf h.le hb,
          Nat.sub_ne_zero_of_lt h]

/-! #### The emitter: rows 44 to 47 -/

theorem outcomeOfRow_eHdr (hp : s.phase = .eHdr) : OutcomeOfRow (tableRow s) (step s) := by
  rw [step_eHdr hp]
  by_cases hn : s.n = 0
  · simp [tableRow, hp, hn, exec_emith_of_empty hn, State.compressedRecord]
  · simp [tableRow, hp, hn, exec_emith_of_nonempty hn]

theorem outcomeOfRow_eData (hp : s.phase = .eData) : OutcomeOfRow (tableRow s) (step s) := by
  rw [step_eData hp]
  cases hb : s.dbuf.read s.eidx with
  | none => simp [tableRow, hp, hb, exec_emitd_of_no_byte hb]
  | some b =>
    by_cases h : s.eidx + 1 = s.n
    · simp [tableRow, hp, hb, h, exec_emitd_of_last hb h, State.compressedRecord]
    · simp [tableRow, hp, hb, h, exec_emitd_of_more hb h]

/-! #### DONE and FAULT: no row -/

theorem outcomeOfRow_stopped (hp : s.phase = .done ∨ s.phase = .fault) :
    OutcomeOfRow (tableRow s) (step s) := by
  rw [step_of_stopped hp]
  rcases hp with h | h <;> simp [tableRow, h]

end RowsByPhase

/-- Every state, whatever its buffer holds: the step is the row that applies, or a stop where none does. -/
theorem outcomeOfRow_step (s : State) : OutcomeOfRow (tableRow s) (step s) := by
  cases hp : s.phase with
  | pMagic0 => exact outcomeOfRow_pMagic0 hp
  | pMagic1 => exact outcomeOfRow_pMagic1 hp
  | pFirst0 => exact outcomeOfRow_pFirst0 hp
  | pFirst1 => exact outcomeOfRow_pFirst1 hp
  | pLast0 => exact outcomeOfRow_pLast0 hp
  | pLast1 => exact outcomeOfRow_pLast1 hp
  | pCopy => exact outcomeOfRow_pCopy hp
  | pCtype => exact outcomeOfRow_pCtype hp
  | lToken => exact outcomeOfRow_lToken hp
  | lLitext => exact outcomeOfRow_lLitext hp
  | lLit => exact outcomeOfRow_lLit hp
  | lOff0 => exact outcomeOfRow_lOff0 hp
  | lOff1 => exact outcomeOfRow_lOff1 hp
  | lMext => exact outcomeOfRow_lMext hp
  | lMatch => exact outcomeOfRow_lMatch hp
  | eHdr => exact outcomeOfRow_eHdr hp
  | eData => exact outcomeOfRow_eData hp
  | done => exact outcomeOfRow_stopped (.inl hp)
  | fault => exact outcomeOfRow_stopped (.inr hp)

/-- Settles O41: a row is the step by `outcomeOfRow_step`, and a step with no row would be a stop. The
premise on N is not needed: table and step make the same capacity test. -/
theorem stepIsTheTransitionTable : Obligations.StepIsTheTransitionTable := by
  intro s _
  have hs := outcomeOfRow_step s
  refine ⟨fun k t hrow => by simpa [hrow] using hs, fun t hstep => ?_⟩
  rw [hstep] at hs
  cases hrow : tableRow s with
  | none => simp [hrow] at hs
  | some row =>
    obtain ⟨k, u⟩ := row
    obtain rfl : t = u := by simpa [hrow] using hs
    exact ⟨k, rfl⟩

end Sys2Proof.Machine
end

section
/-! The causes of a fault stop (60_exceptions.md R252): the cause a state has against the row of the transition
table that applies there, and the obligation O22. -/

namespace Sys2Proof.Machine

/-! ### What an error leaves of the input (R256) -/

/-- The state a step raises in: the byte that revealed the error has been consumed in rows 4 and 35. -/
def State.atRaise (s : State) : State :=
  if faultTakesByte s ∧ s.item ≠ .eos then { s with ipos := s.ipos + 1 } else s

theorem State.atRaise_of_eos {s : State} (hi : s.item = .eos) : s.atRaise = s := by
  simp [State.atRaise, hi]

theorem State.atRaise_of_not_takesByte {s : State} (h : faultTakesByte s = false) : s.atRaise = s := by
  simp [State.atRaise, h]

theorem State.atRaise_of_takesByte {s : State} {x : Byte} (h : faultTakesByte s = true)
    (hi : s.item = .byte x) : s.atRaise = s.taken := by
  simp [State.atRaise, h, hi, State.taken_of_byte hi]

/-! ### A cause against its row -/

/-- What R252 asks of the row that applies: with a cause there is one and it raises that error; without one
no row enters FAULT. -/
def RowOfCause (s : State) : Option ErrKind → Option (Nat × State) → Prop
  | some e, row => ∃ k, row = some (k, s.atRaise.raise e)
  | none, row => ∀ k t, row = some (k, t) → t.phase ≠ .fault

section RowOfCauseRules

variable (s t : State) (k : Nat) (row row' : Option (Nat × State))

@[simp] theorem rowOfCause_some_some (e : ErrKind) :
    RowOfCause s (some e) (some (k, t)) ↔ t = s.atRaise.raise e := by
  simp [RowOfCause]

@[simp] theorem rowOfCause_none_some : RowOfCause s none (some (k, t)) ↔ t.phase ≠ .fault := by
  simp [RowOfCause]

@[simp] theorem rowOfCause_none_none : RowOfCause s none none := by
  simp [RowOfCause]

/-- No row enters FAULT on either side of a row's guard. -/
@[simp] theorem rowOfCause_none_ite (c : Prop) [Decidable c] :
    RowOfCause s none (if c then row else row') ↔
      (c → RowOfCause s none row) ∧ (¬ c → RowOfCause s none row') := by
  split <;> simp [*]

end RowOfCauseRules

section CausesByPhase

variable {s : State}

/-- Rows 3 to 5: BadMagic at the end of the stream, and over a byte that does not complete `FF FF`. -/
theorem rowOfCause_pMagic1 (hp : s.phase = .pMagic1) :
    RowOfCause s (faultCause s) (tableRow s) := by
  cases hi : s.item with
  | eos => simp [faultCause, tableRow, hp, hi, State.atRaise_of_eos hi]
  | byte x =>
    by_cases h : s.m0 ≠ 0xFF ∨ x ≠ 0xFF
    · have ht : s.atRaise = s.taken := State.atRaise_of_takesByte (by simp [faultTakesByte, hp]) hi
      simp only [faultCause, tableRow, hp, hi, if_pos h, rowOfCause_some_some, ht]
    · obtain ⟨hm, rfl⟩ : s.m0 = 0xFF ∧ x = 0xFF := by simpa using h
      simp [faultCause, tableRow, hp, hi, hm]

/-- Rows 28 to 31: a full buffer comes before the item (R259). -/
theorem rowOfCause_lLit (hp : s.phase = .lLit) : RowOfCause s (faultCause s) (tableRow s) := by
  have hk : s.atRaise = s := State.atRaise_of_not_takesByte (by simp [faultTakesByte, hp])
  cases hf : s.full with
  | true => cases hi : s.item <;> simp [faultCause, tableRow, hp, hi, hf, hk]
  | false => cases hi : s.item <;> simp [faultCause, tableRow, hp, hi, hf, hk]

/-- Rows 34 to 37: CorruptBlock over the byte that completes an offset of 0 or above N. -/
theorem rowOfCause_lOff1 (hp : s.phase = .lOff1) : RowOfCause s (faultCause s) (tableRow s) := by
  cases hi : s.item with
  | eos => simp [faultCause, tableRow, hp, hi, State.atRaise_of_eos hi]
  | byte x =>
    by_cases h : (u16 s.olo x).toNat = 0 ∨ s.n < (u16 s.olo x).toNat
    · have ht : s.atRaise = s.taken := State.atRaise_of_takesByte (by simp [faultTakesByte, hp]) hi
      simp only [faultCause, tableRow, hp, hi, if_pos h, rowOfCause_some_some, ht]
    · simp [faultCause, tableRow, hp, hi, h]

/-- Rows 41 to 43: MATCH takes no item, and a full buffer is its one error. -/
theorem rowOfCause_lMatch (hp : s.phase = .lMatch) : RowOfCause s (faultCause s) (tableRow s) := by
  have hk : s.atRaise = s := State.atRaise_of_not_takesByte (by simp [faultTakesByte, hp])
  cases hf : s.full with
  | true => simp [faultCause, tableRow, hp, hf, hk]
  | false => cases hb : s.backReference <;> simp [faultCause, tableRow, hp, hf, hb]

/-- Rows 46 and 47: EMITD raises nothing. -/
theorem rowOfCause_eData (hp : s.phase = .eData) : RowOfCause s (faultCause s) (tableRow s) := by
  cases hb : s.dbuf.read s.eidx <;> simp [faultCause, tableRow, hp, hb]

end CausesByPhase

/-- In the last two groups the item alone decides: a byte raises nothing, and the end of the stream raises the
phase's error, or ends the file or the block (rows 6 and 32). -/
theorem rowOfCause (s : State) : RowOfCause s (faultCause s) (tableRow s) := by
  cases hp : s.phase with
  | pMagic1 => exact rowOfCause_pMagic1 hp
  | lLit => exact rowOfCause_lLit hp
  | lOff1 => exact rowOfCause_lOff1 hp
  | lMatch => exact rowOfCause_lMatch hp
  | eData => exact rowOfCause_eData hp
  | eHdr | done | fault => simp [faultCause, tableRow, hp]
  | pFirst0 | lOff0 => cases hi : s.item <;> simp [faultCause, tableRow, hp, hi]
  | pMagic0 | pFirst1 | pLast0 | pLast1 | pCopy | pCtype | lToken | lLitext | lMext =>
    cases hi : s.item with
    | eos => simp [faultCause, tableRow, hp, hi, State.atRaise_of_eos hi]
    | byte x => simp [faultCause, tableRow, hp, hi]

/-- Settles O22: steps and rows are the same (O41), and the row that applies is the one the cause asks for. -/
theorem errorsHaveExactlyTheListedCauses : Obligations.ErrorsHaveExactlyTheListedCauses := by
  intro s hcap
  obtain ⟨step_of_row, row_of_step⟩ := stepIsTheTransitionTable s hcap
  have hcause := rowOfCause s
  refine ⟨fun e he => ?_, fun t hstep hfault => ?_⟩
  · obtain ⟨k, hrow⟩ : ∃ k, tableRow s = some (k, s.atRaise.raise e) := by rwa [he] at hcause
    exact step_of_row k _ hrow
  · obtain ⟨k, hrow⟩ := row_of_step t hstep
    cases he : faultCause s with
    | some e => exact ⟨e, rfl⟩
    | none =>
      rw [he, hrow, rowOfCause_none_some] at hcause
      exact absurd hfault hcause

end Sys2Proof.Machine
end

section
/-! What a step can do, said once as a relation: one constructor for each row of the transition table
(43_control_and_arithmetic.md R220), the rows that differ in their phase alone together. Later proofs take a
step apart by these rows and do not unfold `step`. -/

namespace Sys2Proof.Machine

/-- The error of a phase in which the stream must not end (R252). -/
def Phase.eosError : Phase → Option ErrKind
  | .pMagic0 | .pMagic1 => some .badMagic
  | .pFirst1 | .pLast0 | .pLast1 | .pCtype => some .truncatedHeader
  | .pCopy => some .truncatedSegment
  | .lToken | .lLitext | .lLit | .lOff1 | .lMext => some .truncatedBlock
  | .pFirst0 | .lOff0 | .lMatch | .eHdr | .eData | .done | .fault => none

/-- The next states of `s`, row by row. -/
inductive StepTo (s : State) : State → Prop where
  /-- Rows 1, 3, 8, 11, 13, 16, 19, 21, 25, 29, 34 and 38: the stream ends inside an element or a segment. -/
  | truncated {e : ErrKind} (he : s.phase.eosError = some e) (hi : s.item = .eos)
      (hf : s.phase = .lLit → s.full = false) : StepTo s (s.raise e)
  /-- Rows 28 and 41. -/
  | full (hp : s.phase = .lLit ∨ s.phase = .lMatch) (hf : s.full = true) :
      StepTo s (s.raise .capacityFault)
  /-- Row 2. -/
  | magic0 {x : Byte} (hp : s.phase = .pMagic0) (hi : s.item = .byte x) :
      StepTo s { s with ipos := s.ipos + 1, m0 := x, phase := .pMagic1 }
  /-- Row 4. -/
  | badMagic {x : Byte} (hp : s.phase = .pMagic1) (hi : s.item = .byte x)
      (h : s.m0 ≠ 0xFF ∨ x ≠ 0xFF) : StepTo s ({ s with ipos := s.ipos + 1 }.raise .badMagic)
  /-- Row 5. -/
  | fileHeader (hp : s.phase = .pMagic1) (hi : s.item = .byte 0xFF) (hm : s.m0 = 0xFF) :
      StepTo s { s with ipos := s.ipos + 1, out := s.out ++ [0xFF, 0xFF], phase := .pFirst0 }
  /-- Row 6. -/
  | cleanStop (hp : s.phase = .pFirst0) (hi : s.item = .eos) : StepTo s { s with phase := .done }
  /-- Row 7. -/
  | firstLo {x : Byte} (hp : s.phase = .pFirst0) (hi : s.item = .byte x) :
      StepTo s { s with ipos := s.ipos + 1, flo := x, phase := .pFirst1 }
  /-- Row 9. -/
  | dummy (hp : s.phase = .pFirst1) (hi : s.item = .byte 0xFF) (hm : s.flo = 0xFF) :
      StepTo s { s with ipos := s.ipos + 1, fhi := 0xFF, phase := .pFirst0 }
  /-- Row 10. -/
  | firstHi {x : Byte} (hp : s.phase = .pFirst1) (hi : s.item = .byte x)
      (h : ¬ (s.flo = 0xFF ∧ x = 0xFF)) :
      StepTo s { s with ipos := s.ipos + 1, fhi := x, phase := .pLast0 }
  /-- Row 12. -/
  | lastLo {x : Byte} (hp : s.phase = .pLast0) (hi : s.item = .byte x) :
      StepTo s { s with ipos := s.ipos + 1, llo := x, phase := .pLast1 }
  /-- Row 14. -/
  | normalHeader {x : Byte} (hp : s.phase = .pLast1) (hi : s.item = .byte x)
      (h : (u16 s.flo s.fhi).toNat ≤ (u16 s.llo x).toNat) :
      StepTo s { s with
        ipos := s.ipos + 1, lhi := x, out := s.out ++ [s.flo, s.fhi, s.llo, x],
        rem := payloadLength (u16 s.flo s.fhi) (u16 s.llo x), phase := .pCopy }
  /-- Row 15. -/
  | compressedHeader {x : Byte} (hp : s.phase = .pLast1) (hi : s.item = .byte x)
      (h : (u16 s.llo x).toNat < (u16 s.flo s.fhi).toNat) :
      StepTo s { s with ipos := s.ipos + 1, lhi := x, phase := .pCtype }
  /-- Row 17. -/
  | payload {x : Byte} (hp : s.phase = .pCopy) (hi : s.item = .byte x) (h : 1 < s.rem.toNat) :
      StepTo s { s with ipos := s.ipos + 1, out := s.out ++ [x], rem := s.rem - 1, phase := .pCopy }
  /-- Row 18. -/
  | payloadLast {x : Byte} (hp : s.phase = .pCopy) (hi : s.item = .byte x) (h : s.rem.toNat = 1) :
      StepTo s { s with
        ipos := s.ipos + 1, out := s.out ++ [x], rem := 0,
        trace := s.trace ++ [.normal s.first s.last], phase := .pFirst0 }
  /-- Row 20. -/
  | ctype {x : Byte} (hp : s.phase = .pCtype) (hi : s.item = .byte x) :
      StepTo s { s with ipos := s.ipos + 1, ctype := x, dbuf := ⟨[]⟩, phase := .lToken }
  /-- Rows 22 to 24. -/
  | token {x : Byte} (hp : s.phase = .lToken) (hi : s.item = .byte x) :
      StepTo s { s with
        ipos := s.ipos + 1, token := x, litlen := x.toNat / 16,
        phase :=
          if x.toNat / 16 = 15 then .lLitext else if 0 < x.toNat / 16 then .lLit else .lOff0 }
  /-- Rows 26 and 27. -/
  | literalExt {x : Byte} (hp : s.phase = .lLitext) (hi : s.item = .byte x) :
      StepTo s { s with
        ipos := s.ipos + 1, litlen := s.litlen + x.toNat,
        phase := if x = 0xFF then .lLitext else .lLit }
  /-- Rows 30 and 31. -/
  | literal {x : Byte} (hp : s.phase = .lLit) (hf : s.full = false) (hi : s.item = .byte x)
      (h : 1 ≤ s.litlen) :
      StepTo s { s with
        ipos := s.ipos + 1, dbuf := s.dbuf.append x, litlen := s.litlen - 1,
        phase := if s.litlen - 1 = 0 then .lOff0 else .lLit }
  /-- Row 32. -/
  | blockEnd (hp : s.phase = .lOff0) (hi : s.item = .eos) : StepTo s { s with phase := .eHdr }
  /-- Row 33. -/
  | offsetLo {x : Byte} (hp : s.phase = .lOff0) (hi : s.item = .byte x) :
      StepTo s { s with ipos := s.ipos + 1, olo := x, phase := .lOff1 }
  /-- Row 35. -/
  | corrupt {x : Byte} (hp : s.phase = .lOff1) (hi : s.item = .byte x)
      (h : (u16 s.olo x).toNat = 0 ∨ s.n < (u16 s.olo x).toNat) :
      StepTo s ({ s with ipos := s.ipos + 1 }.raise .corruptBlock)
  /-- Rows 36 and 37. -/
  | offset {x : Byte} (hp : s.phase = .lOff1) (hi : s.item = .byte x)
      (h1 : 1 ≤ (u16 s.olo x).toNat) (hn : (u16 s.olo x).toNat ≤ s.n) :
      StepTo s { s with
        ipos := s.ipos + 1, offs := u16 s.olo x, mlen := 4 + s.token.toNat % 16,
        phase := if s.token.toNat % 16 = 15 then .lMext else .lMatch }
  /-- Rows 39 and 40. -/
  | matchExt {x : Byte} (hp : s.phase = .lMext) (hi : s.item = .byte x) :
      StepTo s { s with
        ipos := s.ipos + 1, mlen := s.mlen + x.toNat,
        phase := if x = 0xFF then .lMext else .lMatch }
  /-- Rows 42 and 43. -/
  | copy {b : Byte} (hp : s.phase = .lMatch) (hf : s.full = false) (h : 1 ≤ s.mlen)
      (hb : s.backReference = some b) :
      StepTo s { s with
        dbuf := s.dbuf.append b, mlen := s.mlen - 1,
        phase := if s.mlen - 1 = 0 then .lToken else .lMatch }
  /-- Row 44. -/
  | emptyHeader (hp : s.phase = .eHdr) (hn : s.n = 0) :
      StepTo s { s with
        out := s.out ++
          [s.flo, s.fhi, lo8 (recomputedLast s.first s.n), hi8 (recomputedLast s.first s.n)],
        trace := s.trace ++ [s.compressedRecord], phase := .pFirst0 }
  /-- Row 45. -/
  | header (hp : s.phase = .eHdr) (hn : s.n ≠ 0) :
      StepTo s { s with
        out := s.out ++
          [s.flo, s.fhi, lo8 (recomputedLast s.first s.n), hi8 (recomputedLast s.first s.n)],
        eidx := 0, phase := .eData }
  /-- Row 46. -/
  | data {b : Byte} (hp : s.phase = .eData) (hb : s.dbuf.read s.eidx = some b)
      (h : s.eidx + 1 ≠ s.n) :
      StepTo s { s with out := s.out ++ [b], eidx := s.eidx + 1, phase := .eData }
  /-- Row 47. -/
  | dataLast {b : Byte} (hp : s.phase = .eData) (hb : s.dbuf.read s.eidx = some b)
      (h : s.eidx + 1 = s.n) :
      StepTo s { s with
        out := s.out ++ [b], eidx := s.eidx + 1, trace := s.trace ++ [s.compressedRecord],
        phase := .pFirst0 }

/-- Where no row applies, and the stop with which the model answers (log 6). -/
inductive StopsWith (s : State) : Fault → Prop where
  | stopped (hp : s.phase = .done ∨ s.phase = .fault) : StopsWith s .stopped
  | noPayload {x : Byte} (hp : s.phase = .pCopy) (hi : s.item = .byte x) (h : s.rem.toNat = 0) :
      StopsWith s .counterZero
  | noLiteral {x : Byte} (hp : s.phase = .lLit) (hf : s.full = false) (hi : s.item = .byte x)
      (h : s.litlen = 0) : StopsWith s .counterZero
  | noMatch (hp : s.phase = .lMatch) (hf : s.full = false) (h : s.mlen = 0) :
      StopsWith s .counterZero
  | noBackReference (hp : s.phase = .lMatch) (hf : s.full = false) (h : s.mlen ≠ 0)
      (hb : s.backReference = none) : StopsWith s .dbufRead
  | noData (hp : s.phase = .eData) (hb : s.dbuf.read s.eidx = none) : StopsWith s .dbufRead

variable {s t : State}

/-! ### The rows are steps -/

theorem step_of_eosError {e : ErrKind} (he : s.phase.eosError = some e) (hi : s.item = .eos)
    (hf : s.phase = .lLit → s.full = false) : step s = .next (s.raise e) := by
  cases hp : s.phase <;> rw [hp] at he <;> cases he
  case pMagic0 => exact step_pMagic0_eos hp hi
  case pMagic1 => exact step_pMagic1_eos hp hi
  case pFirst1 => exact step_pFirst1_eos hp hi
  case pLast0 => exact step_pLast0_eos hp hi
  case pLast1 => exact step_pLast1_eos hp hi
  case pCopy => exact step_pCopy_eos hp hi
  case pCtype => exact step_pCtype_eos hp hi
  case lToken => exact step_lToken_eos hp hi
  case lLitext => exact step_lLitext_eos hp hi
  case lLit => exact step_lLit_eos hp (hf hp) hi
  case lOff1 => exact step_lOff1_eos hp hi
  case lMext => exact step_lMext_eos hp hi

/-- Both extension bytes of a literal length in one equation (rows 26 and 27). -/
theorem exec_lextOf_of_byte {x : Byte} (hi : s.item = .byte x) :
    exec (lextOf x) s =
      .next { s with
        ipos := s.ipos + 1, litlen := s.litlen + x.toNat,
        phase := if x = 0xFF then .lLitext else .lLit } := by
  by_cases hx : x = 0xFF
  · subst hx
    exact exec_lextC_of_byte hi
  · rw [lextOf, if_neg hx, if_neg hx, exec_lextE_of_byte hi]

/-- Both extension bytes of a match length in one equation (rows 39 and 40). -/
theorem exec_mextOf_of_byte {x : Byte} (hi : s.item = .byte x) :
    exec (mextOf x) s =
      .next { s with
        ipos := s.ipos + 1, mlen := s.mlen + x.toNat,
        phase := if x = 0xFF then .lMext else .lMatch } := by
  by_cases hx : x = 0xFF
  · subst hx
    exact exec_mextC_of_byte hi
  · rw [mextOf, if_neg hx, if_neg hx, exec_mextE_of_byte hi]

theorem StepTo.step_eq (h : StepTo s t) : step s = .next t := by
  cases h with
  | truncated he hi hf => exact step_of_eosError he hi hf
  | full hp hf =>
    rcases hp with hp | hp
    · exact step_lLit_full hp hf
    · exact (step_lMatch hp).trans (exec_matchCopy_of_full hf)
  | magic0 hp hi => exact step_pMagic0_byte hp hi
  | badMagic hp hi h => exact step_pMagic1_illegal hp hi h
  | fileHeader hp hi hm => exact (step_pMagic1_magic hp hi hm).trans (exec_fhdr_of_byte hi)
  | cleanStop hp hi => exact step_pFirst0_eos hp hi
  | firstLo hp hi => exact step_pFirst0_byte hp hi
  | dummy hp hi hm => exact (step_pFirst1_dummy hp hi hm).trans (exec_dummy_of_byte hi)
  | firstHi hp hi h => exact step_pFirst1_real hp hi h
  | lastLo hp hi => exact step_pLast0_byte hp hi
  | normalHeader hp hi h => exact (step_pLast1_normal hp hi h).trans (exec_segn_of_header hi)
  | compressedHeader hp hi h => exact step_pLast1_compressed hp hi h
  | payload hp hi h => exact (step_pCopy_byte hp hi).trans (exec_payload_of_more hi _ h)
  | payloadLast hp hi h => exact (step_pCopy_byte hp hi).trans (exec_payload_of_last hi _ h)
  | ctype hp hi => exact (step_pCtype_byte hp hi).trans (exec_segc_of_byte hi _ _ _)
  | token hp hi => exact (step_lToken_byte hp hi).trans (exec_token_of_byte hi)
  | literalExt hp hi => exact (step_lLitext_byte hp hi).trans (exec_lextOf_of_byte hi)
  | literal hp hf hi h => exact (step_lLit_byte hp hf hi).trans (exec_lit_of_byte hi _ hf h)
  | blockEnd hp hi => exact (step_lOff0_eos hp hi).trans (exec_blkend s)
  | offsetLo hp hi => exact step_lOff0_byte hp hi
  | corrupt hp hi h => exact (step_lOff1_byte hp hi).trans (exec_moff_of_illegal hi h)
  | offset hp hi h1 hn => exact (step_lOff1_byte hp hi).trans (exec_moff_of_legal hi h1 hn)
  | matchExt hp hi => exact (step_lMext_byte hp hi).trans (exec_mextOf_of_byte hi)
  | copy hp hf h hb => exact (step_lMatch hp).trans (exec_matchCopy_of_backReference hf h hb)
  | emptyHeader hp hn => exact (step_eHdr hp).trans (exec_emith_of_empty hn)
  | header hp hn => exact (step_eHdr hp).trans (exec_emith_of_nonempty hn)
  | data hp hb h => exact (step_eData hp).trans (exec_emitd_of_more hb h)
  | dataLast hp hb h => exact (step_eData hp).trans (exec_emitd_of_last hb h)

theorem StopsWith.step_eq {f : Fault} (h : StopsWith s f) : step s = .fault f := by
  cases h with
  | stopped hp => exact step_of_stopped hp
  | noPayload hp hi h => exact (step_pCopy_byte hp hi).trans (exec_payload_of_rem_zero _ h)
  | noLiteral hp hf hi h => exact (step_lLit_byte hp hf hi).trans (exec_lit_of_litlen_zero _ hf h)
  | noMatch hp hf h => exact (step_lMatch hp).trans (exec_matchCopy_of_mlen_zero hf h)
  | noBackReference hp hf h hb =>
    rw [step_lMatch hp]
    simp [exec, execMatchCopy, hf, h, hb]
  | noData hp hb => exact (step_eData hp).trans (exec_emitd_of_no_byte hb)

/-! ### Every state has a row or a stop -/

/-- A row of `s`, or a stop. -/
def HasRow (s : State) : Prop := (∃ t, StepTo s t) ∨ ∃ f, StopsWith s f

theorem StepTo.hasRow (h : StepTo s t) : HasRow s := .inl ⟨t, h⟩

theorem StopsWith.hasRow {f : Fault} (h : StopsWith s f) : HasRow s := .inr ⟨f, h⟩

/-- In a phase that takes a byte it is enough to give the rows of a byte. -/
theorem hasRow_of_byte {e : ErrKind} (he : s.phase.eosError = some e)
    (hf : s.phase = .lLit → s.full = false) (hbyte : ∀ x, s.item = .byte x → HasRow s) :
    HasRow s := by
  cases hi : s.item with
  | eos => exact (StepTo.truncated he hi hf).hasRow
  | byte x => exact hbyte x hi

theorem hasRow_pMagic1 (hp : s.phase = .pMagic1) : HasRow s := by
  refine hasRow_of_byte (by rw [hp]; rfl) (by simp [hp]) fun x hi => ?_
  by_cases h : s.m0 ≠ 0xFF ∨ x ≠ 0xFF
  · exact (StepTo.badMagic hp hi h).hasRow
  · obtain ⟨hm, rfl⟩ : s.m0 = 0xFF ∧ x = 0xFF := by simpa using h
    exact (StepTo.fileHeader hp hi hm).hasRow

theorem hasRow_pFirst1 (hp : s.phase = .pFirst1) : HasRow s := by
  refine hasRow_of_byte (by rw [hp]; rfl) (by simp [hp]) fun x hi => ?_
  by_cases h : s.flo = 0xFF ∧ x = 0xFF
  · obtain ⟨hm, rfl⟩ := h
    exact (StepTo.dummy hp hi hm).hasRow
  · exact (StepTo.firstHi hp hi h).hasRow

theorem hasRow_pLast1 (hp : s.phase = .pLast1) : HasRow s := by
  refine hasRow_of_byte (by rw [hp]; rfl) (by simp [hp]) fun x hi => ?_
  rcases le_or_gt (u16 s.flo s.fhi).toNat (u16 s.llo x).toNat with h | h
  · exact (StepTo.normalHeader hp hi h).hasRow
  · exact (StepTo.compressedHeader hp hi h).hasRow

theorem hasRow_pCopy (hp : s.phase = .pCopy) : HasRow s := by
  refine hasRow_of_byte (by rw [hp]; rfl) (by simp [hp]) fun x hi => ?_
  rcases lt_trichotomy s.rem.toNat 1 with h | h | h
  · exact (StopsWith.noPayload hp hi (Nat.lt_one_iff.mp h)).hasRow
  · exact (StepTo.payloadLast hp hi h).hasRow
  · exact (StepTo.payload hp hi h).hasRow

theorem hasRow_lLit (hp : s.phase = .lLit) : HasRow s := by
  cases hf : s.full with
  | true => exact (StepTo.full (.inl hp) hf).hasRow
  | false =>
    refine hasRow_of_byte (by rw [hp]; rfl) (fun _ => hf) fun x hi => ?_
    rcases Nat.eq_zero_or_pos s.litlen with h | h
    · exact (StopsWith.noLiteral hp hf hi h).hasRow
    · exact (StepTo.literal hp hf hi h).hasRow

theorem hasRow_lOff1 (hp : s.phase = .lOff1) : HasRow s := by
  refine hasRow_of_byte (by rw [hp]; rfl) (by simp [hp]) fun x hi => ?_
  by_cases h : (u16 s.olo x).toNat = 0 ∨ s.n < (u16 s.olo x).toNat
  · exact (StepTo.corrupt hp hi h).hasRow
  · exact (StepTo.offset hp hi (by omega) (by omega)).hasRow

theorem hasRow_lMatch (hp : s.phase = .lMatch) : HasRow s := by
  cases hf : s.full with
  | true => exact (StepTo.full (.inr hp) hf).hasRow
  | false =>
    rcases Nat.eq_zero_or_pos s.mlen with h | h
    · exact (StopsWith.noMatch hp hf h).hasRow
    · cases hb : s.backReference with
      | none => exact (StopsWith.noBackReference hp hf h.ne' hb).hasRow
      | some b => exact (StepTo.copy hp hf h hb).hasRow

theorem hasRow_eHdr (hp : s.phase = .eHdr) : HasRow s := by
  by_cases hn : s.n = 0
  · exact (StepTo.emptyHeader hp hn).hasRow
  · exact (StepTo.header hp hn).hasRow

theorem hasRow_eData (hp : s.phase = .eData) : HasRow s := by
  cases hb : s.dbuf.read s.eidx with
  | none => exact (StopsWith.noData hp hb).hasRow
  | some b =>
    by_cases h : s.eidx + 1 = s.n
    · exact (StepTo.dataLast hp hb h).hasRow
    · exact (StepTo.data hp hb h).hasRow

theorem hasRow (s : State) : HasRow s := by
  cases hp : s.phase with
  | pMagic1 => exact hasRow_pMagic1 hp
  | pFirst1 => exact hasRow_pFirst1 hp
  | pLast1 => exact hasRow_pLast1 hp
  | pCopy => exact hasRow_pCopy hp
  | lLit => exact hasRow_lLit hp
  | lOff1 => exact hasRow_lOff1 hp
  | lMatch => exact hasRow_lMatch hp
  | eHdr => exact hasRow_eHdr hp
  | eData => exact hasRow_eData hp
  | done => exact (StopsWith.stopped (.inl hp)).hasRow
  | fault => exact (StopsWith.stopped (.inr hp)).hasRow
  | pFirst0 =>
    cases hi : s.item with
    | eos => exact (StepTo.cleanStop hp hi).hasRow
    | byte x => exact (StepTo.firstLo hp hi).hasRow
  | lOff0 =>
    cases hi : s.item with
    | eos => exact (StepTo.blockEnd hp hi).hasRow
    | byte x => exact (StepTo.offsetLo hp hi).hasRow
  | pMagic0 =>
    exact hasRow_of_byte (by rw [hp]; rfl) (by simp [hp]) fun _ hi => (StepTo.magic0 hp hi).hasRow
  | pLast0 =>
    exact hasRow_of_byte (by rw [hp]; rfl) (by simp [hp]) fun _ hi => (StepTo.lastLo hp hi).hasRow
  | pCtype =>
    exact hasRow_of_byte (by rw [hp]; rfl) (by simp [hp]) fun _ hi => (StepTo.ctype hp hi).hasRow
  | lToken =>
    exact hasRow_of_byte (by rw [hp]; rfl) (by simp [hp]) fun _ hi => (StepTo.token hp hi).hasRow
  | lLitext =>
    exact hasRow_of_byte (by rw [hp]; rfl) (by simp [hp]) fun _ hi => (StepTo.literalExt hp hi).hasRow
  | lMext =>
    exact hasRow_of_byte (by rw [hp]; rfl) (by simp [hp]) fun _ hi => (StepTo.matchExt hp hi).hasRow

/-! ### A step is one of the rows -/

theorem stepTo_iff : StepTo s t ↔ step s = .next t := by
  refine ⟨StepTo.step_eq, fun h => ?_⟩
  rcases hasRow s with ⟨u, hu⟩ | ⟨f, hf⟩
  · obtain rfl : t = u := by simpa [h] using hu.step_eq
    exact hu
  · simp [hf.step_eq] at h

theorem stopsWith_iff {f : Fault} : StopsWith s f ↔ step s = .fault f := by
  refine ⟨StopsWith.step_eq, fun h => ?_⟩
  rcases hasRow s with ⟨u, hu⟩ | ⟨g, hg⟩
  · simp [hu.step_eq] at h
  · obtain rfl : f = g := by simpa [h] using hg.step_eq
    exact hg

end Sys2Proof.Machine
end

section
/-! What every step keeps and extends, read off the rows: registers, streams and trace, and the obligations
O35, O36, O37, O38 and O45. -/

namespace Sys2Proof.Machine

variable {s t : State}

/-! ### The "written in" column of the register table (R25) -/

/-- Settles O35: each row names its phase and the registers it writes. -/
theorem registersAreWrittenOnlyInTheirPhases : Obligations.RegistersAreWrittenOnlyInTheirPhases := by
  intro s t hstep
  cases stepTo_iff.mpr hstep
  case truncated | full => simp
  all_goals simp [‹s.phase = _›]

/-! ### The streams -/

theorem StepTo.inp_cfg_eq (h : StepTo s t) : t.inp = s.inp ∧ t.cfg = s.cfg := by
  cases h <;> exact ⟨rfl, rfl⟩

/-- A row takes no byte, or the one at the cursor. -/
theorem StepTo.ipos_cases (h : StepTo s t) :
    t.ipos = s.ipos ∨ t.ipos = s.ipos + 1 ∧ s.ipos < s.inp.length := by
  cases h
  case truncated | full | cleanStop | blockEnd | copy | emptyHeader | header | data | dataLast =>
    exact .inl rfl
  all_goals exact .inr ⟨rfl, State.lt_of_item_byte ‹_›⟩

theorem StepTo.extends_out (h : StepTo s t) : s.out <+: t.out := by
  cases h
  case fileHeader | normalHeader | payload | payloadLast | emptyHeader | header | data | dataLast =>
    exact List.prefix_append _ _
  all_goals exact List.prefix_rfl

theorem StepTo.extends_trace (h : StepTo s t) : s.trace <+: t.trace := by
  cases h
  case payloadLast | emptyHeader | dataLast => exact List.prefix_append _ _
  all_goals exact List.prefix_rfl

theorem State.atEos_iff (s : State) : s.atEos = true ↔ s.inp.length ≤ s.ipos := by
  simp [State.atEos]

/-- Settles O36: the end of the stream is sticky because the input is fixed and no row passes its end. -/
theorem streamsOnlyMoveForward : Obligations.StreamsOnlyMoveForward := by
  intro s t hstep
  have h := stepTo_iff.mpr hstep
  obtain ⟨hinp, hcfg⟩ := h.inp_cfg_eq
  refine ⟨hinp, hcfg, h.extends_out, h.extends_trace, h.ipos_cases, ?_, fun heos => ?_⟩
  · rw [State.atEos_iff, State.item_eos_iff]
  · rw [State.atEos_iff] at heos
    have hpos : t.ipos = s.ipos := h.ipos_cases.resolve_right fun hmore => by omega
    rw [State.atEos_iff, hinp, hpos]
    exact ⟨heos, rfl⟩

/-- Settles O37: the rows of these phases write neither OUT nor TRACE; the others start elsewhere. -/
theorem nothingIsWrittenBeforeTheBlockEnds : Obligations.NothingIsWrittenBeforeTheBlockEnds := by
  intro s t hphase hstep
  cases stepTo_iff.mpr hstep
  case fileHeader hp _ _ | normalHeader hp _ _ | payload hp _ _ | payloadLast hp _ _ |
      emptyHeader hp _ | header hp _ | data hp _ _ | dataLast hp _ _ =>
    simp [hp, Phase.isDecoder] at hphase
  all_goals exact ⟨rfl, rfl⟩

/-! ### The trace -/

/-- Settles O38: rows 18, 44 and 47 append their record, and no other row's phase and item ask for one. -/
theorem traceRecordsCompletedSegments : Obligations.TraceRecordsCompletedSegments := by
  intro s t hstep
  cases stepTo_iff.mpr hstep
  case truncated he hi _ => cases hp : s.phase <;> simp_all [Phase.eosError]
  case full hp _ => rcases hp with hp | hp <;> simp [hp]
  case payload hp hi h => simp [hp, hi, h.ne']
  case payloadLast hp hi h => simp [hp, hi, h]
  case emptyHeader hp hn => simp [hp, hn, State.compressedRecord]
  case header hp hn => simp [hp, hn]
  case data hp _ h => simp [hp, h]
  case dataLast hp _ h => simp [hp, h, State.compressedRecord]
  all_goals simp [‹s.phase = _›]

/-! ### Progress (R222) -/

/-- Settles O45: a row that takes no byte writes one, copies a match byte, stops, or ends the block. -/
theorem everyStepMakesProgress : Obligations.EveryStepMakesProgress := by
  intro s t hstep
  cases stepTo_iff.mpr hstep
  case truncated | full => exact .inr (.inr (.inr (.inr (.inl rfl))))
  case cleanStop => exact .inr (.inr (.inr (.inl rfl)))
  case blockEnd => exact .inr (.inr (.inr (.inr (.inr rfl))))
  case copy h _ => exact .inr (.inr (.inl (Nat.sub_add_cancel h)))
  case emptyHeader | header | data | dataLast => exact .inr (.inl (by simp [State.opos]))
  all_goals exact .inl rfl

end Sys2Proof.Machine
end

section
/-! The invariant (Safety.lean `Inv`): what it says in every phase and what it says in each phase alone, that
every row keeps it, that a state in it has a row until the stop, and the obligations O42, O43, O44, O46, O48
and O49. -/

namespace Sys2Proof.Machine

variable {s t : State}

/-! ### The invariant, phase by phase -/

/-- What `Inv` says whatever PHASE is. -/
structure CommonInv (s : State) : Prop where
  dbuf_wf : s.dbuf.wf
  cursor : s.ipos ≤ s.inp.length
  err_iff : s.err ≠ 0 ↔ s.phase = .fault
  err_legal : s.err ≠ 7
  capacity : ∀ c, s.cfg.decCap = some c → s.n ≤ c

/-- The file header has been read and written. -/
def State.magicPassed (s : State) : Prop := startsWithMagic s.out ∧ startsWithMagic s.inp

/-- The rest of a compressed segment's header has been read too (R73, R93). -/
def State.segmentOpen (s : State) : Prop :=
  s.magicPassed ∧ s.first ≠ 0xFFFF ∧ s.last.toNat < s.first.toNat

/-- What `Inv` says of a state in phase `p` alone. -/
def Phase.clause (p : Phase) (s : State) : Prop :=
  match p with
  | .pMagic0 => s.out = [] ∧ s.ipos = 0
  | .pMagic1 => s.out = [] ∧ s.ipos = 1 ∧ s.inp[0]? = some s.m0
  | .pFirst0 | .pFirst1 => s.magicPassed
  | .pLast0 | .pLast1 => s.magicPassed ∧ s.first ≠ 0xFFFF
  | .pCopy => s.magicPassed ∧ s.first ≠ 0xFFFF ∧ s.first.toNat ≤ s.last.toNat ∧
      1 ≤ s.rem.toNat ∧ s.rem.toNat ≤ s.last.toNat - s.first.toNat + 1
  | .pCtype | .lToken => s.segmentOpen
  | .lLitext => s.segmentOpen ∧ 15 ≤ s.litlen
  | .lLit => s.segmentOpen ∧ 1 ≤ s.litlen
  | .lOff0 | .lOff1 => s.segmentOpen ∧ s.litlen = 0
  | .lMext => s.segmentOpen ∧ (1 ≤ s.offs.toNat ∧ s.offs.toNat ≤ s.n) ∧ 19 ≤ s.mlen
  | .lMatch => s.segmentOpen ∧ (1 ≤ s.offs.toNat ∧ s.offs.toNat ≤ s.n) ∧ 1 ≤ s.mlen
  | .eHdr => s.segmentOpen ∧ s.ipos = s.inp.length
  | .eData => s.segmentOpen ∧ s.ipos = s.inp.length ∧ s.eidx < s.n
  | .done => s.magicPassed ∧ s.ipos = s.inp.length
  | .fault =>
    if s.err = ErrKind.badMagic.code then s.out = [] ∧ ¬ startsWithMagic s.inp else s.magicPassed

/-- The clause of the present PHASE. -/
def PhaseInv (s : State) : Prop := s.phase.clause s

theorem Inv.common (h : Inv s) : CommonInv s :=
  ⟨h.dbuf_wf, h.cursor, h.err_iff, h.err_legal, h.capacity⟩

theorem Inv.phase (h : Inv s) : PhaseInv s := by
  have hmagic := h.magic
  have hreal := h.real_header
  have hcompressed := h.compressed
  unfold State.magicInOut at hmagic
  unfold PhaseInv
  cases hp : s.phase <;> simp only [hp, Phase.hasRealHeader, Phase.inCompressed] at hreal hcompressed <;>
    simp [hp] at hmagic
  case pMagic0 => exact ⟨hmagic, h.magic0 hp⟩
  case pMagic1 => exact ⟨hmagic, h.magic1 hp⟩
  case pFirst0 | pFirst1 => exact hmagic
  case pLast0 | pLast1 => exact ⟨hmagic, hreal trivial⟩
  case pCopy => exact ⟨hmagic, hreal trivial, h.copying hp⟩
  case pCtype | lToken => exact ⟨hmagic, hreal trivial, hcompressed trivial⟩
  case lLitext => exact ⟨⟨hmagic, hreal trivial, hcompressed trivial⟩, h.lit_extension hp⟩
  case lLit => exact ⟨⟨hmagic, hreal trivial, hcompressed trivial⟩, h.literals hp⟩
  case lOff0 => exact ⟨⟨hmagic, hreal trivial, hcompressed trivial⟩, h.literals_done (.inl hp)⟩
  case lOff1 => exact ⟨⟨hmagic, hreal trivial, hcompressed trivial⟩, h.literals_done (.inr hp)⟩
  case lMext =>
    exact ⟨⟨hmagic, hreal trivial, hcompressed trivial⟩, h.offset (.inl hp), h.match_extension hp⟩
  case lMatch =>
    exact ⟨⟨hmagic, hreal trivial, hcompressed trivial⟩, h.offset (.inr hp), h.matching hp⟩
  case eHdr => exact ⟨⟨hmagic, hreal trivial, hcompressed trivial⟩, h.exhausted (.inl hp)⟩
  case eData =>
    exact ⟨⟨hmagic, hreal trivial, hcompressed trivial⟩, h.exhausted (.inr (.inl hp)), h.emitting hp⟩
  case done => exact ⟨hmagic, h.exhausted (.inr (.inr hp))⟩
  case fault => exact hmagic

theorem Inv.of_parts (hc : CommonInv s) (hp : PhaseInv s) : Inv s where
  dbuf_wf := hc.dbuf_wf
  cursor := hc.cursor
  err_iff := hc.err_iff
  err_legal := hc.err_legal
  capacity := hc.capacity
  magic0 h := by
    rw [PhaseInv, h] at hp
    exact hp.2
  magic1 h := by
    rw [PhaseInv, h] at hp
    exact hp.2
  magic := by
    unfold PhaseInv Phase.clause at hp
    cases h : s.phase <;> simp_all [State.magicInOut, State.magicPassed, State.segmentOpen]
  real_header h := by
    unfold PhaseInv Phase.clause at hp
    cases hs : s.phase <;> simp_all [Phase.hasRealHeader, State.segmentOpen]
  compressed h := by
    unfold PhaseInv Phase.clause at hp
    cases hs : s.phase <;> simp_all [Phase.inCompressed, State.segmentOpen]
  copying h := by
    rw [PhaseInv, h] at hp
    obtain ⟨-, -, hcopy⟩ := hp
    exact hcopy
  lit_extension h := by
    rw [PhaseInv, h] at hp
    exact hp.2
  literals h := by
    rw [PhaseInv, h] at hp
    exact hp.2
  literals_done h := by
    rcases h with h | h <;> rw [PhaseInv, h] at hp <;> exact hp.2
  offset h := by
    rcases h with h | h <;> rw [PhaseInv, h] at hp <;> exact hp.2.1
  match_extension h := by
    rw [PhaseInv, h] at hp
    obtain ⟨-, -, hlen⟩ := hp
    exact hlen
  matching h := by
    rw [PhaseInv, h] at hp
    obtain ⟨-, -, hlen⟩ := hp
    exact hlen
  emitting h := by
    rw [PhaseInv, h] at hp
    obtain ⟨-, -, hidx⟩ := hp
    exact hidx
  exhausted h := by
    rcases h with h | h | h <;> rw [PhaseInv, h] at hp
    · exact hp.2
    · exact hp.2.1
    · exact hp.2

/-! ### Runs start in the invariant -/

theorem inv_load (cfg : Config) (fresh : List Byte) : Inv (State.load cfg fresh) := by
  refine .of_parts ⟨Memory.empty_wf, Nat.zero_le _, ?_, ?_, fun _ _ => Nat.zero_le _⟩ ⟨rfl, rfl⟩
  · simp
  · simp

/-- Settles O42: in P_MAGIC0 with nothing read, written or decoded the invariant asks for no more. -/
theorem runsStartInTheInvariant : Obligations.RunsStartInTheInvariant :=
  ⟨inv_load, inv_load Config.default []⟩

/-! ### What every row keeps of the part common to all phases -/

/-- A byte taken leaves the cursor within the input. -/
theorem CommonInv.take {x : Byte} (hc : CommonInv s) (hi : s.item = .byte x) :
    CommonInv { s with ipos := s.ipos + 1 } :=
  { hc with cursor := State.lt_of_item_byte hi }

theorem CommonInv.raise (hc : CommonInv s) (e : ErrKind) : CommonInv (s.raise e) := by
  refine { hc with err_iff := ?_, err_legal := ?_ } <;> cases e <;> simp [ErrKind.code]

/-- A row that stays out of FAULT and keeps ERR. -/
theorem CommonInv.move (hc : CommonInv s) (hs : s.phase ≠ .fault) (ht : t.phase ≠ .fault)
    (herr : t.err = s.err) (hcfg : t.cfg = s.cfg) (hcursor : t.ipos ≤ t.inp.length)
    (hwf : t.dbuf.wf) (hcap : ∀ c, s.cfg.decCap = some c → t.n ≤ c) : CommonInv t := by
  refine ⟨hwf, hcursor, ?_, herr ▸ hc.err_legal, hcfg ▸ hcap⟩
  rw [herr, hc.err_iff]
  exact iff_of_false hs ht

/-- Where the buffer is not full there is room for one byte more. -/
theorem State.room_of_not_full (hf : s.full = false) (c : Nat) (hc : s.cfg.decCap = some c) :
    s.n + 1 ≤ c := by
  by_contra h
  have : s.full = true := s.full_iff.mpr ⟨c, hc, by omega⟩
  simp [this] at hf

theorem StepTo.commonInv (hc : CommonInv s) (h : StepTo s t) : CommonInv t := by
  cases h
  case truncated e he hi hf => exact hc.raise e
  case full hp hf => exact hc.raise _
  case badMagic hp hi h | corrupt hp hi h => exact (hc.take hi).raise _
  case ctype hp hi =>
    exact hc.move (by simp [hp]) (by simp) rfl rfl (State.lt_of_item_byte hi) Memory.empty_wf
      fun _ _ => Nat.zero_le _
  case literal x hp hf hi hl =>
    exact hc.move (by simp [hp]) (by dsimp only; split <;> simp) rfl rfl (State.lt_of_item_byte hi)
      (Memory.append_wf hc.dbuf_wf x) fun c h => by
        simpa [State.n] using State.room_of_not_full hf c h
  case copy b hp hf hm hb =>
    exact hc.move (by simp [hp]) (by dsimp only; split <;> simp) rfl rfl hc.cursor
      (Memory.append_wf hc.dbuf_wf b) fun c h => by
        simpa [State.n] using State.room_of_not_full hf c h
  case cleanStop hp _ | blockEnd hp _ | emptyHeader hp _ | header hp _ | data hp _ _ |
      dataLast hp _ _ =>
    exact hc.move (by simp [hp]) (by simp) rfl rfl hc.cursor hc.dbuf_wf hc.capacity
  case token hp hi =>
    exact hc.move (by simp [hp]) (by dsimp only; (repeat' split) <;> simp) rfl rfl
      (State.lt_of_item_byte hi) hc.dbuf_wf hc.capacity
  case literalExt hp hi | matchExt hp hi | offset hp hi _ _ =>
    exact hc.move (by simp [hp]) (by dsimp only; split <;> simp) rfl rfl
      (State.lt_of_item_byte hi) hc.dbuf_wf hc.capacity
  case magic0 hp hi | fileHeader hp hi _ | firstLo hp hi | dummy hp hi _ | firstHi hp hi _ |
      lastLo hp hi | normalHeader hp hi _ | compressedHeader hp hi _ | payload hp hi _ |
      payloadLast hp hi _ | offsetLo hp hi =>
    exact hc.move (by simp [hp]) (by simp) rfl rfl (State.lt_of_item_byte hi) hc.dbuf_wf hc.capacity

/-! ### What every row establishes for its next phase -/

theorem startsWithMagic_iff (bs : List Byte) :
    startsWithMagic bs ↔ bs[0]? = some 0xFF ∧ bs[1]? = some 0xFF := by
  unfold startsWithMagic
  rcases bs with _ | ⟨a, _ | ⟨b, rest⟩⟩
  · simp
  · simp
  · simp [List.cons_prefix_cons, @eq_comm _ a, @eq_comm _ b]

theorem not_startsWithMagic_of_short {bs : List Byte} (h : bs.length ≤ 1) :
    ¬ startsWithMagic bs := by
  intro hm
  have := List.IsPrefix.length_le hm
  simp at this
  omega

theorem startsWithMagic_append {bs : List Byte} (h : startsWithMagic bs) (more : List Byte) :
    startsWithMagic (bs ++ more) :=
  h.trans (List.prefix_append bs more)

theorem State.magicPassed_append (h : s.magicPassed) (more : List Byte) :
    startsWithMagic (s.out ++ more) ∧ startsWithMagic s.inp :=
  ⟨startsWithMagic_append h.1 more, h.2⟩

/-- From the end of the file header on it has been read and written. -/
theorem PhaseInv.magicPassed (h : PhaseInv s) (h0 : s.phase ≠ .pMagic0) (h1 : s.phase ≠ .pMagic1)
    (hf : s.phase ≠ .fault) : s.magicPassed := by
  unfold PhaseInv Phase.clause State.segmentOpen at h
  cases hp : s.phase <;> simp_all

theorem phaseInv_raise {e : ErrKind} (he : e ≠ .badMagic) (h : s.magicPassed) :
    PhaseInv (s.raise e) := by
  have hcode : e.code ≠ ErrKind.badMagic.code := by
    cases e
    case badMagic => exact absurd rfl he
    all_goals decide
  exact (if_neg hcode).mpr h

theorem phaseInv_raise_badMagic (ho : s.out = []) (hi : ¬ startsWithMagic s.inp) :
    PhaseInv (s.raise .badMagic) :=
  ⟨ho, hi⟩

/-- The stream ends inside the file header, or after it. -/
theorem phaseInv_truncated {e : ErrKind} (hinv : PhaseInv s) (he : s.phase.eosError = some e)
    (hi : s.item = .eos) : PhaseInv (s.raise e) := by
  rw [State.item_eos_iff] at hi
  by_cases h0 : s.phase = .pMagic0
  · obtain rfl : ErrKind.badMagic = e := by simpa [h0, Phase.eosError] using he
    rw [PhaseInv, h0] at hinv
    obtain ⟨hout, hpos⟩ := hinv
    exact phaseInv_raise_badMagic hout (not_startsWithMagic_of_short (by omega))
  by_cases h1 : s.phase = .pMagic1
  · obtain rfl : ErrKind.badMagic = e := by simpa [h1, Phase.eosError] using he
    rw [PhaseInv, h1] at hinv
    obtain ⟨hout, hpos, -⟩ := hinv
    exact phaseInv_raise_badMagic hout (not_startsWithMagic_of_short (by omega))
  refine phaseInv_raise ?_ (hinv.magicPassed h0 h1 ?_)
  · rintro rfl
    cases hp : s.phase <;> simp_all [Phase.eosError]
  · intro hp
    simp [hp, Phase.eosError] at he

/-- FFFF is the one header word of two magic bytes (R73). -/
theorem u16_eq_ffff_iff (lo hi : Byte) : u16 lo hi = 0xFFFF ↔ lo = 0xFF ∧ hi = 0xFF := by
  rw [← BitVec.toNat_inj, u16_toNat, ← BitVec.toNat_inj, ← BitVec.toNat_inj]
  have := lo.isLt
  have := hi.isLt
  change lo.toNat + 256 * hi.toNat = 65535 ↔ lo.toNat = 255 ∧ hi.toNat = 255
  omega

theorem StepTo.phaseInv (hc : CommonInv s) (hinv : PhaseInv s) (h : StepTo s t) : PhaseInv t := by
  cases h
  case truncated e he hi hf => exact phaseInv_truncated hinv he hi
  case full hp hf =>
    refine phaseInv_raise (by simp) (hinv.magicPassed ?_ ?_ ?_) <;> rcases hp with hp | hp <;> simp [hp]
  case corrupt hp hi h =>
    exact phaseInv_raise (s := { s with ipos := s.ipos + 1 }) (by simp)
      (hinv.magicPassed (by simp [hp]) (by simp [hp]) (by simp [hp]))
  all_goals rw [PhaseInv, ‹s.phase = _›] at hinv
  case badMagic x hp hi h =>
    obtain ⟨hout, hpos, hm⟩ := hinv
    refine phaseInv_raise_badMagic (s := { s with ipos := s.ipos + 1 }) hout ?_
    rw [State.item_byte_iff, hpos] at hi
    show ¬ startsWithMagic s.inp
    rw [startsWithMagic_iff, hm, hi]
    simpa using imp_iff_not_or.mpr h
  case magic0 x hp hi =>
    rw [State.item_byte_iff, hinv.2] at hi
    exact ⟨hinv.1, by simp [hinv.2], hi⟩
  case fileHeader hp hi hm =>
    obtain ⟨hout, hpos, hm0⟩ := hinv
    rw [State.item_byte_iff, hpos] at hi
    exact ⟨by simp [hout, startsWithMagic], (startsWithMagic_iff s.inp).mpr ⟨hm ▸ hm0, hi⟩⟩
  case cleanStop hp hi => exact ⟨hinv, le_antisymm hc.cursor ((State.item_eos_iff s).mp hi)⟩
  case blockEnd hp hi => exact ⟨hinv.1, le_antisymm hc.cursor ((State.item_eos_iff s).mp hi)⟩
  case firstLo hp hi => exact hinv
  case dummy hp hi hm => exact hinv
  case firstHi hp hi h => exact ⟨hinv, mt (u16_eq_ffff_iff _ _).mp h⟩
  case lastLo hp hi => exact hinv
  case normalHeader x hp hi h =>
    obtain ⟨hm, hfirst⟩ := hinv
    refine ⟨State.magicPassed_append hm _, hfirst, h, ?_, ?_⟩
    · show 1 ≤ (payloadLength (u16 s.flo s.fhi) (u16 s.llo x)).toNat
      rw [payloadLength_toNat h]
      omega
    · exact (payloadLength_toNat h).le
  case compressedHeader x hp hi h => exact ⟨hinv.1, hinv.2, h⟩
  case payload x hp hi h =>
    obtain ⟨hm, hfirst, hle, hpos, hrem⟩ := hinv
    have hsub : (s.rem - 1).toNat = s.rem.toNat - 1 := by bv_omega
    refine ⟨State.magicPassed_append hm _, hfirst, hle, ?_, ?_⟩
    · show 1 ≤ (s.rem - 1).toNat
      omega
    · show (s.rem - 1).toNat ≤ s.last.toNat - s.first.toNat + 1
      omega
  case payloadLast x hp hi h => exact State.magicPassed_append hinv.1 _
  case ctype x hp hi => exact hinv
  case token x hp hi =>
    show Phase.clause (if _ then _ else _) _
    split_ifs with h15 h0
    · exact ⟨hinv, h15.ge⟩
    · exact ⟨hinv, h0⟩
    · exact ⟨hinv, Nat.eq_zero_of_not_pos h0⟩
  case literalExt x hp hi =>
    obtain ⟨hseg, hlen⟩ := hinv
    have hmore : 15 ≤ s.litlen + x.toNat := hlen.trans (Nat.le_add_right _ _)
    show Phase.clause (if _ then _ else _) _
    split_ifs
    · exact ⟨hseg, hmore⟩
    · exact ⟨hseg, le_trans (by decide) hmore⟩
  case literal x hp hf hi h =>
    show Phase.clause (if _ then _ else _) _
    split_ifs with h0
    · exact ⟨hinv.1, h0⟩
    · exact ⟨hinv.1, Nat.pos_of_ne_zero h0⟩
  case offsetLo x hp hi => exact hinv
  case offset x hp hi h1 hn =>
    show Phase.clause (if _ then _ else _) _
    split_ifs with h15
    · exact ⟨hinv.1, ⟨h1, hn⟩, (congrArg (4 + ·) h15).ge⟩
    · exact ⟨hinv.1, ⟨h1, hn⟩, le_trans (by decide) (Nat.le_add_right 4 _)⟩
  case matchExt x hp hi =>
    obtain ⟨hseg, hoffs, hlen⟩ := hinv
    have hmore : 19 ≤ s.mlen + x.toNat := hlen.trans (Nat.le_add_right _ _)
    show Phase.clause (if _ then _ else _) _
    split_ifs
    · exact ⟨hseg, hoffs, hmore⟩
    · exact ⟨hseg, hoffs, le_trans (by decide) hmore⟩
  case copy b hp hf h hb =>
    obtain ⟨hseg, ⟨h1, hn⟩, -⟩ := hinv
    show Phase.clause (if _ then _ else _) _
    split_ifs with h0
    · exact hseg
    · refine ⟨hseg, ⟨h1, ?_⟩, Nat.pos_of_ne_zero h0⟩
      exact hn.trans (by simp [State.n])
  case emptyHeader hp hn =>
    obtain ⟨⟨hm, -⟩, -⟩ := hinv
    exact State.magicPassed_append hm _
  case header hp hn =>
    obtain ⟨⟨hm, hfirst⟩, hpos⟩ := hinv
    exact ⟨⟨State.magicPassed_append hm _, hfirst⟩, hpos, Nat.pos_of_ne_zero hn⟩
  case data b hp hb h =>
    obtain ⟨⟨hm, hfirst⟩, hpos, hlt⟩ := hinv
    refine ⟨⟨State.magicPassed_append hm _, hfirst⟩, hpos, ?_⟩
    show s.eidx + 1 < s.n
    omega
  case dataLast b hp hb h =>
    obtain ⟨⟨hm, -⟩, -⟩ := hinv
    exact State.magicPassed_append hm _

/-- Settles O43: `Inv` is its common part with the clause of the present PHASE, and every row keeps the one
and establishes the other. -/
theorem stepKeepsTheInvariant : Obligations.StepKeepsTheInvariant := by
  intro s t hinv hstep
  have hrow := stepTo_iff.mpr hstep
  exact .of_parts (hrow.commonInv hinv.common) (hrow.phaseInv hinv.common hinv.phase)

/-! ### A row until the stop -/

/-- Under the invariant the counters are not 0 and the bytes to read exist, so the one stop is that of R22. -/
theorem Inv.not_stopsWith {f : Fault} (hinv : Inv s) (hd : s.phase ≠ .done) (hf : s.phase ≠ .fault) :
    ¬ StopsWith s f := by
  intro h
  cases h
  case stopped hp => exact hp.elim hd hf
  case noPayload hp _ h =>
    obtain ⟨-, hpos, -⟩ := hinv.copying hp
    omega
  case noLiteral hp _ _ h =>
    have := hinv.literals hp
    omega
  case noMatch hp _ h =>
    have := hinv.matching hp
    omega
  case noBackReference hp _ _ hb =>
    obtain ⟨h1, hn⟩ := hinv.offset (.inr hp)
    obtain ⟨b, -, hb'⟩ := State.exists_backReference hinv.dbuf_wf h1 hn
    simp [hb] at hb'
  case noData hp hb =>
    obtain ⟨b, hb'⟩ := Memory.read_isSome hinv.dbuf_wf (hinv.emitting hp)
    simp [hb] at hb'

theorem Inv.exists_step (hinv : Inv s) (hd : s.phase ≠ .done) (hf : s.phase ≠ .fault) :
    ∃ t, StepTo s t :=
  (hasRow s).resolve_right fun ⟨_, hstop⟩ => hinv.not_stopsWith hd hf hstop

/-- Settles O44: a row by `Inv.exists_step`, and it is a row of the table by O41. -/
theorem stepExistsUntilTheStop : Obligations.StepExistsUntilTheStop := by
  intro s hinv hd hf
  obtain ⟨t, ht⟩ := hinv.exists_step hd hf
  obtain ⟨k, hrow⟩ := (stepIsTheTransitionTable s hinv.capacity).2 t ht.step_eq
  exact ⟨k, t, hrow, ht.step_eq⟩

/-! ### Termination (R222) -/

/-- How many steps are left at most if no byte is taken any more: none after a stop, one to raise or to stop
cleanly, MLEN in L_MATCH, and the bytes still to emit behind the end of a block. -/
def State.stepsWithoutInput (s : State) : Nat :=
  match s.phase with
  | .done | .fault => 0
  | .lMatch => s.mlen + 1
  | .lOff0 => s.n + 3
  | .eHdr => s.n + 2
  | .eData => s.n - s.eidx + 1
  | .pMagic0 | .pMagic1 | .pFirst0 | .pFirst1 | .pLast0 | .pLast1 | .pCopy | .pCtype
  | .lToken | .lLitext | .lLit | .lOff1 | .lMext => 1

/-- Bytes left to take, then steps left without taking one. -/
def State.runMeasure (s : State) : Nat ×ₗ Nat := toLex (s.inp.length - s.ipos, s.stepsWithoutInput)

theorem runMeasure_lt_of_taken (hinp : t.inp = s.inp) (hpos : t.ipos = s.ipos + 1)
    (hlt : s.ipos < s.inp.length) : t.runMeasure < s.runMeasure := by
  refine Prod.Lex.toLex_lt_toLex.mpr (.inl ?_)
  rw [hinp, hpos]
  omega

theorem runMeasure_lt_of_stayed (hinp : t.inp = s.inp) (hpos : t.ipos = s.ipos)
    (hlt : t.stepsWithoutInput < s.stepsWithoutInput) : t.runMeasure < s.runMeasure :=
  Prod.Lex.toLex_lt_toLex.mpr (.inr ⟨by rw [hinp, hpos], hlt⟩)

theorem stepsWithoutInput_pos (hd : s.phase ≠ .done) (hf : s.phase ≠ .fault) :
    0 < s.stepsWithoutInput := by
  unfold State.stepsWithoutInput
  cases hp : s.phase <;> simp_all

theorem StepTo.runMeasure_lt (hinv : Inv s) (h : StepTo s t) : t.runMeasure < s.runMeasure := by
  cases h
  case truncated he _ _ =>
    refine runMeasure_lt_of_stayed rfl rfl (stepsWithoutInput_pos ?_ ?_) <;> intro hp <;>
      simp [hp, Phase.eosError] at he
  case full hp _ =>
    refine runMeasure_lt_of_stayed rfl rfl (stepsWithoutInput_pos ?_ ?_) <;>
      rcases hp with hp | hp <;> simp [hp]
  case cleanStop hp _ =>
    exact runMeasure_lt_of_stayed rfl rfl (by simp [State.stepsWithoutInput, hp])
  case blockEnd hp _ =>
    exact runMeasure_lt_of_stayed rfl rfl (by simp [State.stepsWithoutInput, hp, State.n])
  case copy hp _ hm _ =>
    refine runMeasure_lt_of_stayed rfl rfl ?_
    simp only [State.stepsWithoutInput, hp]
    by_cases h0 : s.mlen - 1 = 0
    · simp only [if_pos h0]
      omega
    · simp only [if_neg h0]
      omega
  case emptyHeader hp hn =>
    exact runMeasure_lt_of_stayed rfl rfl (by simp [State.stepsWithoutInput, hp])
  case header hp hn =>
    exact runMeasure_lt_of_stayed rfl rfl (by simp [State.stepsWithoutInput, hp, State.n])
  case data hp _ h =>
    refine runMeasure_lt_of_stayed rfl rfl ?_
    have hlt : s.eidx < s.n := hinv.emitting hp
    rw [State.n] at hlt
    simp only [State.stepsWithoutInput, hp, State.n]
    omega
  case dataLast hp _ h =>
    refine runMeasure_lt_of_stayed rfl rfl ?_
    simp only [State.stepsWithoutInput, hp]
    omega
  all_goals exact runMeasure_lt_of_taken rfl rfl (State.lt_of_item_byte ‹_›)

/-- Settles O46: under the invariant there is a step until the stop, and every step makes the measure smaller.
-/
theorem everyRunStops : Obligations.EveryRunStops := by
  intro s hinv
  generalize hm : s.runMeasure = m
  induction m using WellFoundedLT.induction generalizing s with
  | _ m ih =>
    by_cases hstop : s.phase = .done ∨ s.phase = .fault
    · exact ⟨0, s, run_zero s, hstop⟩
    · obtain ⟨hd, hf⟩ := not_or.mp hstop
      obtain ⟨t, ht⟩ := hinv.exists_step hd hf
      have hinv' := stepKeepsTheInvariant s t hinv ht.step_eq
      obtain ⟨k, u, hrun, hu⟩ := ih t.runMeasure (hm ▸ ht.runMeasure_lt hinv) t hinv' rfl
      exact ⟨k + 1, u, by rw [run_succ_of_next k ht.step_eq, hrun], hu⟩

/-! ### What a stop means -/

/-- A run keeps the invariant, its input and its parameters. -/
theorem inv_of_run {cfg : Config} {input : List Byte} {k : Nat}
    (h : core.run k (State.load cfg input) = .next t) : Inv t ∧ t.inp = input := by
  refine run_induction (P := fun u => Inv u ∧ u.inp = input) ?_ k ⟨inv_load cfg input, rfl⟩ h
  rintro u v ⟨hinv, hinp⟩ hstep
  exact ⟨stepKeepsTheInvariant u v hinv hstep, (stepTo_iff.mpr hstep).inp_cfg_eq.1.trans hinp⟩

theorem State.status_done_iff : s.status = .done ↔ s.phase = .done := by
  cases hp : s.phase <;> simp [State.status, hp]

theorem State.status_fault_iff : s.status = .fault ↔ s.phase = .fault := by
  cases hp : s.phase <;> simp [State.status, hp]

/-- Settles O48: the clauses of the invariant in DONE and in FAULT. -/
theorem stopsMeanWhatTheySay : Obligations.StopsMeanWhatTheySay := by
  intro cfg input k t hrun
  obtain ⟨hinv, rfl⟩ := inv_of_run hrun
  refine ⟨fun hs => ?_, fun hs => ?_⟩
  · rw [State.status_done_iff] at hs
    obtain ⟨⟨hout, hin⟩, hpos⟩ : t.magicPassed ∧ t.ipos = t.inp.length := by
      have hclause := hinv.phase
      rwa [PhaseInv, hs] at hclause
    have herr : t.err = 0 := by
      by_contra h
      simp [hinv.err_iff.mp h] at hs
    exact ⟨hpos, herr, hin, hout⟩
  · have h0 : t.err ≠ 0 := hinv.err_iff.mpr (State.status_fault_iff.mp hs)
    have h7 := hinv.err_legal
    bv_omega

/-- Settles O49: a stop is DONE, or FAULT with BadMagic, where nothing has been written, or FAULT after the
file header. -/
theorem fileHeaderIsPreserved : Obligations.FileHeaderIsPreserved := by
  intro cfg input k t hrun hstop
  obtain ⟨hinv, rfl⟩ := inv_of_run hrun
  have hmagic := hinv.magic
  have hnot : ¬ (t.phase = .pMagic0 ∨ t.phase = .pMagic1) := by
    rintro (hp | hp) <;> simp [State.status, hp] at hstop
  rw [State.magicInOut, if_neg hnot] at hmagic
  split_ifs at hmagic
  · obtain ⟨hout, hin⟩ := hmagic
    have hempty : ¬ startsWithMagic t.out := by
      rw [hout]
      exact not_startsWithMagic_of_short (by simp)
    exact ⟨iff_of_false hempty hin, fun _ => hout⟩
  · exact ⟨iff_of_true hmagic.1 hmagic.2, fun h => absurd hmagic.2 h⟩

end Sys2Proof.Machine
end

section
/-! The decoder and the encoder (30_encoding.md): the encoding of an instruction read back, what the decoder
reads encoded again, the steps over the bytes of one element, and the obligations O23 to O29. -/

namespace Sys2Proof.Machine

variable {s t : State}

/-! ### An encoding read back -/

theorem isMagicPair_halves_iff (v : Half) : isMagicPair (lo8 v) (hi8 v) = true ↔ v = 0xFFFF := by
  rw [isMagicPair_iff, ← u16_eq_ffff_iff, u16_lo8_hi8]

/-- The bytes of a real header are not those of a dummy header. -/
theorem decodeHeader_of_real {first : Half} (h : first ≠ 0xFFFF) (rest : List Byte) :
    decodeHeader (lo8 first :: hi8 first :: rest) = decodeReal (lo8 first :: hi8 first :: rest) :=
  if_neg (mt (isMagicPair_halves_iff first).mp h)

theorem wellFormed_segn_iff (first last : Half) :
    (Instr.segn first last).wellFormed = true ↔ first ≠ 0xFFFF ∧ first.toNat ≤ last.toNat := by
  rw [← isNormal_iff]
  simp [Instr.wellFormed]

theorem wellFormed_segc_iff (first last : Half) (ctype : Byte) :
    (Instr.segc first last ctype).wellFormed = true ↔
      first ≠ 0xFFFF ∧ last.toNat < first.toNat := by
  rw [← not_le, ← isNormal_iff]
  simp [Instr.wellFormed]

/-- Settles O26: the formats are told apart by their bytes alone, and a real header from a dummy by `first`.
-/
theorem decodeOfEncodeIsTheInstruction : Obligations.DecodeOfEncodeIsTheInstruction := by
  intro i rest hwf heos
  cases i with
  | eof | blkend => rw [heos rfl]; rfl
  | segn first last =>
    obtain ⟨hfirst, hle⟩ := (wellFormed_segn_iff first last).mp hwf
    refine (decodeHeader_of_real hfirst _).trans ?_
    simp [decodeReal, (isNormal_iff first last).mpr hle]
  | segc first last ctype =>
    obtain ⟨hfirst, hlt⟩ := (wellFormed_segc_iff first last ctype).mp hwf
    refine (decodeHeader_of_real hfirst _).trans ?_
    have hnormal : ¬ isNormal first last = true := mt (isNormal_iff first last).mp (not_le.mpr hlt)
    simp [decodeReal, decodeCompressed, hnormal]
  | token lcode mcode =>
    simp [Instr.startPhase, encode, decode, decodeToken]
  | moff d => simp [Instr.startPhase, encode, decode, decodeOffset]
  | lextE e =>
    exact congrArg (Decoded.ok · rest) (if_neg (of_decide_eq_true hwf))
  | mextE e =>
    exact congrArg (Decoded.ok · rest) (if_neg (of_decide_eq_true hwf))
  | fhdr | dummy | payload _ | lextC | lit _ | mextC | matchCopy | emith | emitd => rfl

/-! ### What is read, encoded again -/

/-- An extension byte of a literal length is read as one of the two LEXT, and encoded as itself. -/
theorem lextOf_spec (e : Byte) :
    (lextOf e).wellFormed = true ∧ (lextOf e).startPhase = .lLitext ∧ encode (lextOf e) = [e] := by
  by_cases he : e = Config.extCont
  · rw [lextOf, if_pos he, he]
    exact ⟨rfl, rfl, rfl⟩
  · rw [lextOf, if_neg he]
    exact ⟨decide_eq_true he, rfl, rfl⟩

/-- An extension byte of a match length is read as one of the two MEXT, and encoded as itself. -/
theorem mextOf_spec (e : Byte) :
    (mextOf e).wellFormed = true ∧ (mextOf e).startPhase = .lMext ∧ encode (mextOf e) = [e] := by
  by_cases he : e = Config.extCont
  · rw [mextOf, if_pos he, he]
    exact ⟨rfl, rfl, rfl⟩
  · rw [mextOf, if_neg he]
    exact ⟨decide_eq_true he, rfl, rfl⟩

/-- What `d` reads is a well-formed instruction that starts in `p`, and its encoding is the bytes it took. -/
def ReadsBack (p : Phase) (d : List Byte → Decoded) : Prop :=
  ∀ bytes i rest, d bytes = .ok i rest →
    i.wellFormed = true ∧ i.startPhase = p ∧ bytes = encode i ++ rest

theorem readsBack_fileHeader : ReadsBack .pMagic0 decodeFileHeader := by
  rintro (_ | ⟨a, _ | ⟨b, more⟩⟩) i rest h
  · cases h
  · cases h
  · by_cases hm : isMagicPair a b = true
    · obtain ⟨rfl, rfl⟩ := (isMagicPair_iff a b).mp hm
      cases h
      exact ⟨rfl, rfl, rfl⟩
    · simp [decodeFileHeader, hm] at h

/-- A header whose first two bytes are no dummy header. -/
theorem readsBack_real {a b : Byte} (hm : ¬ isMagicPair a b = true) (more : List Byte) (i : Instr)
    (rest : List Byte) (h : decodeReal (a :: b :: more) = .ok i rest) :
    i.wellFormed = true ∧ i.startPhase = .pFirst0 ∧ a :: b :: more = encode i ++ rest := by
  have hfirst : u16 a b ≠ 0xFFFF := by rwa [ne_eq, u16_eq_ffff_iff, ← isMagicPair_iff]
  rcases more with _ | ⟨c, _ | ⟨d, more⟩⟩
  · cases h
  · cases h
  · rcases le_or_gt (u16 a b).toNat (u16 c d).toNat with hle | hlt
    · have hnormal := (isNormal_iff _ _).mpr hle
      obtain ⟨rfl, rfl⟩ : Instr.segn (u16 a b) (u16 c d) = i ∧ more = rest := by
        simpa [decodeReal, hnormal] using h
      exact ⟨(wellFormed_segn_iff _ _).mpr ⟨hfirst, hle⟩, rfl, by simp [encode]⟩
    · have hnormal := mt (isNormal_iff _ _).mp (not_le.mpr hlt)
      rcases more with _ | ⟨e, more⟩
      · simp [decodeReal, hnormal, decodeCompressed] at h
      · obtain ⟨rfl, rfl⟩ : Instr.segc (u16 a b) (u16 c d) e = i ∧ more = rest := by
          simpa [decodeReal, hnormal, decodeCompressed] using h
        exact ⟨(wellFormed_segc_iff _ _ _).mpr ⟨hfirst, hlt⟩, rfl, by simp [encode]⟩

theorem readsBack_header : ReadsBack .pFirst0 decodeHeader := by
  rintro (_ | ⟨a, _ | ⟨b, more⟩⟩) i rest h
  · cases h
    exact ⟨rfl, rfl, rfl⟩
  · cases h
  · by_cases hm : isMagicPair a b = true
    · obtain ⟨rfl, rfl⟩ := (isMagicPair_iff a b).mp hm
      cases h
      exact ⟨rfl, rfl, rfl⟩
    · exact readsBack_real hm more i rest ((if_neg hm).symm.trans h)

theorem readsBack_payload : ReadsBack .pCopy decodePayload := by
  rintro (_ | ⟨a, more⟩) i rest h <;> cases h
  exact ⟨rfl, rfl, rfl⟩

theorem readsBack_token : ReadsBack .lToken decodeToken := by
  rintro (_ | ⟨a, more⟩) i rest h <;> cases h
  exact ⟨rfl, rfl, by simp [encode]⟩

theorem readsBack_litExt : ReadsBack .lLitext decodeLitExt := by
  rintro (_ | ⟨a, more⟩) i rest h <;> cases h
  obtain ⟨hwf, hstart, henc⟩ := lextOf_spec a
  exact ⟨hwf, hstart, congrArg (· ++ more) henc.symm⟩

theorem readsBack_lit : ReadsBack .lLit decodeLit := by
  rintro (_ | ⟨a, more⟩) i rest h <;> cases h
  exact ⟨rfl, rfl, rfl⟩

theorem readsBack_offset : ReadsBack .lOff0 decodeOffset := by
  rintro (_ | ⟨a, _ | ⟨b, more⟩⟩) i rest h <;> cases h
  · exact ⟨rfl, rfl, rfl⟩
  · exact ⟨rfl, rfl, by simp [encode]⟩

theorem readsBack_matchExt : ReadsBack .lMext decodeMatchExt := by
  rintro (_ | ⟨a, more⟩) i rest h <;> cases h
  obtain ⟨hwf, hstart, henc⟩ := mextOf_spec a
  exact ⟨hwf, hstart, congrArg (· ++ more) henc.symm⟩

/-- Settles O27: one lemma for the decoder of each phase in which an element starts. -/
theorem encodeOfDecodeIsTheBytes : Obligations.EncodeOfDecodeIsTheBytes := by
  intro p bytes i rest hp h
  cases p with
  | pMagic0 => exact readsBack_fileHeader bytes i rest h
  | pFirst0 => exact readsBack_header bytes i rest h
  | pCopy => exact readsBack_payload bytes i rest h
  | lToken => exact readsBack_token bytes i rest h
  | lLitext => exact readsBack_litExt bytes i rest h
  | lLit => exact readsBack_lit bytes i rest h
  | lOff0 => exact readsBack_offset bytes i rest h
  | lMext => exact readsBack_matchExt bytes i rest h
  | lMatch | eHdr | eData =>
    cases h
    exact ⟨rfl, rfl, rfl⟩
  | pMagic1 | pFirst1 | pLast0 | pLast1 | pCtype | lOff1 | done | fault => cases hp

/-- Settles O29: a header that is read is well formed (O27), so `first` is not FFFF, and above `last` in SEGC.
-/
theorem decodedHeaderHasFirstInRange : Obligations.DecodedHeaderHasFirstInRange := by
  have hrange : ∀ first : Half, first ≠ 0xFFFF → first.toNat ≤ 65534 := by
    intro first hfirst
    bv_omega
  refine fun bytes rest => ⟨fun first last h => ?_, fun first last ctype h => ?_⟩
  · obtain ⟨hfirst, -⟩ := (wellFormed_segn_iff first last).mp (readsBack_header _ _ _ h).1
    exact hrange first hfirst
  · obtain ⟨hfirst, hlt⟩ := (wellFormed_segc_iff first last ctype).mp (readsBack_header _ _ _ h).1
    exact ⟨Nat.one_le_of_lt hlt, hrange first hfirst⟩

/-- Settles O25: each word is read by one decoder of its phase. -/
theorem writtenOutWordsDecode : Obligations.WrittenOutWordsDecode := by
  unfold Obligations.WrittenOutWordsDecode
  decide

/-! ### A step and the decoder's answer -/

/-- Settles O23: the decoder decides the step, except in L_LIT with a full buffer, where the fetch and LIT
raise the same error. -/
theorem stepRunsTheDecodedInstruction : Obligations.StepRunsTheDecodedInstruction := by
  intro s i rest hd
  by_cases hfull : s.phase = .lLit ∧ s.full = true
  · obtain ⟨hp, hf⟩ := hfull
    cases hi : s.item with
    | eos => simp [hp, hi, State.latched, Item.toBytes, decode, decodeLit] at hd
    | byte x =>
      obtain ⟨rfl, -⟩ : Instr.lit x = i ∧ [] = rest := by
        simpa [hp, hi, State.latched, Item.toBytes, decode, decodeLit] using hd
      rw [step_lLit_full hp hf, exec_lit_of_full x hf]
  · rw [not_and_or, Bool.not_eq_true] at hfull
    exact step_of_decode_ok hfull hd

/-- The one illegal encoding is found over a byte. -/
theorem exists_item_of_illegal {e : ErrKind}
    (hd : decode s.phase (s.latched ++ s.item.toBytes) = .illegal e) : ∃ x, s.item = .byte x := by
  cases hi : s.item with
  | byte x => exact ⟨x, rfl⟩
  | eos =>
    cases hp : s.phase <;>
      simp [hp, hi, State.latched, Item.toBytes, decode, decodeFileHeader, decodeHeader, decodeReal,
        decodeCompressed, decodePayload, decodeToken, decodeLitExt, decodeLit, decodeOffset,
        decodeMatchExt] at hd

/-- Settles O24: the three answers of the decoder without an instruction, each one rule of the fetch. -/
theorem stepOfAnUnfinishedElement : Obligations.StepOfAnUnfinishedElement := by
  intro s e hfull
  rw [not_and_or, Bool.not_eq_true] at hfull
  refine ⟨fun hd hi => ?_, fun x hd hi => ?_, fun hd => ?_⟩
  · rw [hi, Item.toBytes, List.append_nil] at hd
    exact step_of_truncated_eos hfull hi hd
  · rw [hi, Item.toBytes] at hd
    cases hl : s.latch x with
    | none =>
      refine absurd ?_ (fetch_never_unlatched s)
      simp [fetch_of_not_full hfull, hi, Item.toBytes, hd, hl]
    | some t =>
      obtain ⟨hpos, hlatched, -⟩ := State.latch_some hl
      refine ⟨t, rfl, step_of_truncated_byte hfull hi hd hl, ?_, hlatched⟩
      rw [hpos, State.taken_of_byte hi]
  · obtain ⟨x, hi⟩ := exists_item_of_illegal hd
    rw [step_of_decode_illegal hfull hd, State.taken_of_byte hi]

end Sys2Proof.Machine
end

section
/-! The input still to read, runs over the bytes of a header, and the obligation O28. -/

namespace Sys2Proof.Machine

variable {s t : State}

/-! ### The input still to read -/

/-- The part of IN behind the cursor. -/
def State.rest (s : State) : List Byte := s.inp.drop s.ipos

section Rest

variable {x : Byte} {bytes : List Byte}

theorem State.item_of_rest_cons (h : s.rest = x :: bytes) : s.item = .byte x := by
  rw [State.item_byte_iff, ← List.head?_drop]
  exact congrArg List.head? h

theorem State.item_of_rest_nil (h : s.rest = []) : s.item = .eos :=
  s.item_eos_iff.mpr (List.drop_eq_nil_iff.mp h)

/-- `k` bytes taken are the first of the rest. -/
theorem State.rest_add {k : Nat} (hinp : t.inp = s.inp) (hpos : t.ipos = s.ipos + k) :
    t.rest = s.rest.drop k := by
  rw [State.rest, State.rest, hinp, hpos, List.drop_drop]

theorem State.rest_after {pre : List Byte} (h : s.rest = pre ++ bytes) (hinp : t.inp = s.inp)
    (hpos : t.ipos = s.ipos + pre.length) : t.rest = bytes := by
  rw [State.rest_add hinp hpos, h, List.drop_left]

theorem State.rest_of_taken (h : s.rest = x :: bytes) (hinp : t.inp = s.inp)
    (hpos : t.ipos = s.ipos + 1) : t.rest = bytes :=
  State.rest_after (pre := [x]) h hinp hpos

theorem State.rest_of_stayed (hinp : t.inp = s.inp) (hpos : t.ipos = s.ipos) : t.rest = s.rest :=
  State.rest_add (k := 0) hinp hpos

/-- The item after `k` bytes taken is the byte of the rest with that index. -/
theorem State.item_add {k : Nat} (h : s.rest[k]? = some x) (hinp : t.inp = s.inp)
    (hpos : t.ipos = s.ipos + k) : t.item = .byte x := by
  rw [State.rest, List.getElem?_drop] at h
  rwa [State.item_byte_iff, hinp, hpos]

end Rest

theorem StepTo.run_one (h : StepTo s t) : core.run 1 s = .next t := run_one_of_next h.step_eq

/-- One row more at the front of a run. -/
theorem StepTo.run_succ {k : Nat} {o : Host.Outcome State Fault Refusal} (h : StepTo s t)
    (hk : core.run k t = o) : core.run (k + 1) s = o :=
  (run_succ_of_next k h.step_eq).trans hk

/-! ### Runs over the first bytes of a header -/

section Header

variable {a b c d : Byte} {more : List Byte}

/-- The first three bytes of a real header. -/
theorem run_realHeader (hp : s.phase = .pFirst0) (hr : s.rest = a :: b :: c :: more)
    (hm : ¬ (a = 0xFF ∧ b = 0xFF)) :
    core.run 3 s =
      .next { s with ipos := s.ipos + 3, flo := a, fhi := b, llo := c, phase := .pLast1 } := by
  have h1 : s.rest[1]? = some b := by rw [hr]; rfl
  have h2 : s.rest[2]? = some c := by rw [hr]; rfl
  exact StepTo.run_succ (.firstLo hp (State.item_of_rest_cons hr)) <|
    StepTo.run_succ (.firstHi rfl (State.item_add h1 rfl rfl) hm) <|
      StepTo.run_one (.lastLo rfl (State.item_add h2 rfl rfl))

/-- The four bytes of the header of a compressed segment. -/
theorem run_compressedHeader (hp : s.phase = .pFirst0) (hr : s.rest = a :: b :: c :: d :: more)
    (hm : ¬ (a = 0xFF ∧ b = 0xFF)) (hlt : (u16 c d).toNat < (u16 a b).toNat) :
    core.run 4 s =
      .next { s with
        ipos := s.ipos + 4, flo := a, fhi := b, llo := c, lhi := d, phase := .pCtype } := by
  have h3 : s.rest[3]? = some d := by rw [hr]; rfl
  exact (run_add 3 1 (run_realHeader hp hr hm)).trans <|
    StepTo.run_one (.compressedHeader rfl (State.item_add h3 rfl rfl) hlt)

end Header

/-! ### An element runs at its last byte -/

/-- `k` steps from `s` keep the bytes of the element `i` but its last one, and the next step is its meaning.
-/
def KeptThenRuns (k : Nat) (i : Instr) (s : State) : Prop :=
  ∃ t, core.run k s = .next t ∧ step t = exec i t ∧ t.latched = (encode i).dropLast ∧
    t.ipos = s.ipos + k ∧ t.out = s.out ∧ t.dbuf = s.dbuf ∧ t.trace = s.trace

/-- An element of one byte runs at once. -/
theorem keptThenRuns_of_oneByte {i : Instr} {x : Byte} {more : List Byte} (henc : encode i = [x])
    (hwf : i.wellFormed = true) (hp : s.phase = i.startPhase) (heos : i.isEndOfStream = false)
    (hl : s.latched = []) (hr : s.rest = x :: more) : KeptThenRuns 0 i s := by
  refine ⟨s, run_zero s, ?_, by rw [hl, henc]; rfl, rfl, rfl, rfl, rfl⟩
  have hd := decodeOfEncodeIsTheInstruction i [] hwf (by simp [heos])
  refine stepRunsTheDecodedInstruction s i [] ?_
  rwa [hp, hl, State.item_of_rest_cons hr, Item.toBytes, List.nil_append, ← henc,
    ← List.append_nil (encode i)]

theorem not_magicPair_of_first {first : Half} (h : first ≠ 0xFFFF) :
    ¬ (lo8 first = 0xFF ∧ hi8 first = 0xFF) := by
  rwa [← u16_eq_ffff_iff, u16_lo8_hi8]

/-- Settles O28: one byte by the decoder alone, and the longer elements by the rows over their first bytes. -/
theorem elementRunsAtItsLastByte : Obligations.ElementRunsAtItsLastByte := by
  intro s i hwf hp hne hin
  obtain ⟨more, hr⟩ := hin
  replace hr : s.rest = encode i ++ more := hr.symm
  show KeptThenRuns _ i s
  cases i with
  | eof | blkend | matchCopy | emith | emitd => exact absurd rfl hne
  | payload _ | token _ _ | lextC | lextE _ | lit _ | mextC | mextE _ =>
    exact keptThenRuns_of_oneByte rfl hwf hp rfl (by simp [State.latched, hp, Instr.startPhase]) hr
  | fhdr =>
    have hi := State.item_of_rest_cons hr
    refine ⟨_, (StepTo.magic0 hp hi).run_one, ?_, rfl, rfl, rfl, rfl, rfl⟩
    exact step_pMagic1_magic rfl (State.item_of_rest_cons (State.rest_of_taken hr rfl rfl)) rfl
  | dummy =>
    have hi := State.item_of_rest_cons hr
    refine ⟨_, (StepTo.firstLo hp hi).run_one, ?_, rfl, rfl, rfl, rfl, rfl⟩
    exact step_pFirst1_dummy rfl (State.item_of_rest_cons (State.rest_of_taken hr rfl rfl)) rfl
  | moff d =>
    have hi := State.item_of_rest_cons hr
    refine ⟨_, (StepTo.offsetLo hp hi).run_one, ?_, rfl, rfl, rfl, rfl, rfl⟩
    have hstep := step_lOff1_byte (s := { s with ipos := s.ipos + 1, olo := lo8 d, phase := .lOff1 })
      rfl (State.item_of_rest_cons (State.rest_of_taken hr rfl rfl))
    simpa only [u16_lo8_hi8] using hstep
  | segn first last =>
    obtain ⟨hfirst, hle⟩ := (wellFormed_segn_iff first last).mp hwf
    have hm := not_magicPair_of_first hfirst
    have h3 : s.rest[3]? = some (hi8 last) := by rw [hr]; rfl
    refine ⟨_, run_realHeader hp hr hm, ?_, rfl, rfl, rfl, rfl, rfl⟩
    have hstep := step_pLast1_normal
      (s := { s with
        ipos := s.ipos + 3, flo := lo8 first, fhi := hi8 first, llo := lo8 last, phase := .pLast1 })
      rfl (State.item_add h3 rfl rfl) (by simpa using hle)
    simpa using hstep
  | segc first last ctype =>
    obtain ⟨hfirst, hlt⟩ := (wellFormed_segc_iff first last ctype).mp hwf
    have hm := not_magicPair_of_first hfirst
    have h4 : s.rest[4]? = some ctype := by rw [hr]; rfl
    refine ⟨_, run_compressedHeader hp hr hm (by simpa using hlt), ?_, rfl, rfl, rfl, rfl, rfl⟩
    have hstep := step_pCtype_byte
      (s := { s with
        ipos := s.ipos + 4, flo := lo8 first, fhi := hi8 first, llo := lo8 last, lhi := hi8 last,
        phase := .pCtype })
      rfl (State.item_add h4 rfl rfl)
    simpa [State.first, State.last] using hstep

end Sys2Proof.Machine
end

section
/-! The frames of the instructions (10_state.md section 3, 20_memory.md section 3), DBUF under an append, the
arithmetic of the fields, reset and the stops, and the obligations O11, O18, O19, O21 and O30 to O34. -/

namespace Sys2Proof.Machine

variable {s t : State}

/-! ### What the branching meanings can answer

The other eleven answer one state each, by definition. -/

theorem exec_payload_next {p : Byte} (h : exec (.payload p) s = .next t) :
    t = ({ s.taken.outWrite p with rem := s.rem - 1 }.record (.normal s.first s.last)).goto .pFirst0 ∨
      t = { s.taken.outWrite p with rem := s.rem - 1 }.goto .pCopy := by
  simp only [exec, execPayload] at h
  split_ifs at h <;> cases h
  · exact .inl rfl
  · exact .inr rfl

theorem exec_lit_next {v : Byte} (h : exec (.lit v) s = .next t) :
    t = s.raise .capacityFault ∨
      ∃ p, t = { s.taken.dbufAppend v with litlen := s.litlen - 1 }.goto p := by
  simp only [exec, execLit] at h
  split_ifs at h <;> cases h
  · exact .inl rfl
  all_goals exact .inr ⟨_, rfl⟩

theorem exec_moff_next {d : Half} (h : exec (.moff d) s = .next t) :
    t = s.taken.raise .corruptBlock ∨
      ∃ p, t = { s.taken with offs := d, mlen := startMatchLength s.mcode }.goto p := by
  simp only [exec, execMoff] at h
  split_ifs at h <;> cases h
  · exact .inr ⟨_, rfl⟩
  · exact .inr ⟨_, rfl⟩
  · exact .inl rfl

theorem exec_matchCopy_next (h : exec .matchCopy s = .next t) :
    t = s.raise .capacityFault ∨
      ∃ b p, t = { s.dbufAppend b with mlen := s.mlen - 1 }.goto p := by
  simp only [exec, execMatchCopy] at h
  split_ifs at h
  · cases h
    exact .inl rfl
  all_goals
    split at h <;> cases h
    exact .inr ⟨_, _, rfl⟩

theorem exec_emith_next (h : exec .emith s = .next t) :
    ∃ a b c d, t = { s.outHeader a b c d with eidx := 0 }.goto .eData ∨
      ∃ r, t = ((s.outHeader a b c d).record r).goto .pFirst0 := by
  simp only [exec, execEmith] at h
  split_ifs at h <;> cases h
  · exact ⟨_, _, _, _, .inr ⟨_, rfl⟩⟩
  · exact ⟨_, _, _, _, .inl rfl⟩

theorem exec_emitd_next (h : exec .emitd s = .next t) :
    ∃ b, t = { s.outWrite b with eidx := s.eidx + 1 }.goto .eData ∨
      ∃ r, t = ({ s.outWrite b with eidx := s.eidx + 1 }.record r).goto .pFirst0 := by
  simp only [exec, execEmitd] at h
  split at h
  · cases h
  · split_ifs at h <;> cases h
    · exact ⟨_, .inr ⟨_, rfl⟩⟩
    · exact ⟨_, .inl rfl⟩

/-- Settles O34: each answer of each meaning is the state with its registers replaced. -/
theorem instructionsWriteOnlyTheirRegisters : Obligations.InstructionsWriteOnlyTheirRegisters := by
  intro i s t h
  cases i with
  | payload p => rcases exec_payload_next h with rfl | rfl <;> simp
  | lit v => rcases exec_lit_next h with rfl | ⟨p, rfl⟩ <;> simp
  | moff d => rcases exec_moff_next h with rfl | ⟨p, rfl⟩ <;> simp
  | matchCopy => rcases exec_matchCopy_next h with rfl | ⟨b, p, rfl⟩ <;> simp
  | emith => obtain ⟨a, b, c, d, rfl | ⟨r, rfl⟩⟩ := exec_emith_next h <;> simp
  | emitd => obtain ⟨b, rfl | ⟨r, rfl⟩⟩ := exec_emitd_next h <;> simp
  | lextC | lextE _ =>
    obtain rfl := Host.Outcome.next.inj h
    simp [State.extendLiteral]
  | mextC | mextE _ =>
    obtain rfl := Host.Outcome.next.inj h
    simp [State.extendMatch]
  | blkend =>
    obtain rfl := Host.Outcome.next.inj ((exec_blkend s).symm.trans h)
    simp
  | fhdr | eof | dummy | segn _ _ | segc _ _ _ | token _ _ =>
    obtain rfl := Host.Outcome.next.inj h
    simp

theorem n_and_reads_of_dbuf_eq (h : t.dbuf = s.dbuf) : t.n = s.n ∧ ∀ a, t.dbuf.read a = s.dbuf.read a := by
  simp [State.n, h]

/-- Settles O33: an append changes the address N alone, and no other meaning but SEGC's touches DBUF. -/
theorem onlyLitMatchAndSegcWriteDbuf : Obligations.OnlyLitMatchAndSegcWriteDbuf := by
  intro i s t h
  cases i with
  | lit v =>
    rcases exec_lit_next h with rfl | ⟨p, rfl⟩ <;> intro a ha
    · rfl
    · exact Memory.append_read_of_ne s.dbuf v ha
  | matchCopy =>
    rcases exec_matchCopy_next h with rfl | ⟨b, p, rfl⟩ <;> intro a ha
    · rfl
    · exact Memory.append_read_of_ne s.dbuf b ha
  | payload p => rcases exec_payload_next h with rfl | rfl <;> exact n_and_reads_of_dbuf_eq (by simp)
  | moff d => rcases exec_moff_next h with rfl | ⟨p, rfl⟩ <;> exact n_and_reads_of_dbuf_eq (by simp)
  | emith =>
    obtain ⟨a, b, c, d, rfl | ⟨r, rfl⟩⟩ := exec_emith_next h <;> exact n_and_reads_of_dbuf_eq (by simp)
  | emitd => obtain ⟨b, rfl | ⟨r, rfl⟩⟩ := exec_emitd_next h <;> exact n_and_reads_of_dbuf_eq (by simp)
  | blkend =>
    obtain rfl := Host.Outcome.next.inj ((exec_blkend s).symm.trans h)
    exact n_and_reads_of_dbuf_eq (by simp)
  | segc _ _ _ =>
    obtain rfl := Host.Outcome.next.inj h
    exact ⟨rfl, fun _ => rfl⟩
  | fhdr | eof | dummy | segn _ _ | token _ _ =>
    obtain rfl := Host.Outcome.next.inj h
    exact n_and_reads_of_dbuf_eq (by simp)
  | lextC | lextE _ | mextC | mextE _ =>
    obtain rfl := Host.Outcome.next.inj h
    exact n_and_reads_of_dbuf_eq (by simp [State.extendLiteral, State.extendMatch])

/-! ### DBUF -/

theorem Memory.read_eq_none_iff {m : Memory} (h : m.wf) (a : Nat) : m.read a = none ↔ m.size ≤ a := by
  rw [Memory.read_eq_bytes h, List.getElem?_eq_none_iff, Memory.bytes_length]

/-- Settles O32: under the canonical form a read is an index into the bytes, and an append adds the last one.
-/
theorem appendReadsBackAndKeepsTheRest : Obligations.AppendReadsBackAndKeepsTheRest := by
  intro m v hwf
  have hwf' := Memory.append_wf hwf v
  refine ⟨?_, fun a ha => Memory.append_read_of_ne m v ha, Memory.append_size m v, hwf',
    Memory.read_eq_none_iff hwf⟩
  rw [Memory.read_eq_bytes hwf', Memory.append_bytes, ← Memory.bytes_length]
  exact List.getElem?_concat_length

/-! ### Arithmetic -/

/-- Where `first >= 1` the sum of R201 is a natural number. -/
theorem recomputedLast_toNat {first : Half} (n : Nat) (h : 1 ≤ first.toNat) :
    (recomputedLast first n).toNat = (first.toNat + n - 1) % 65536 := by
  have := recomputedLast_toNat_eq_emod first n
  omega

/-- Settles O30: four exact computations, the last two under the premises that keep them from wrapping. -/
theorem fieldArithmeticIsExact : Obligations.FieldArithmeticIsExact :=
  ⟨u16_toNat, fun v => ⟨lo8_toNat v, hi8_toNat v⟩, fun _ _ => payloadLength_toNat,
    fun _ n => recomputedLast_toNat n⟩

/-- Settles O31: in the range nothing wraps; outside it N = 0 gives `first - 1` and a larger N wraps. -/
theorem emittedHeaderDescribesTheData : Obligations.EmittedHeaderDescribesTheData := by
  intro first n h
  have hlast := recomputedLast_toNat n h
  constructor
  · rintro ⟨hle, hlen⟩
    rw [payloadLength_toNat hle] at hlen
    omega
  · rintro ⟨h1, hfit⟩
    have hle : first.toNat ≤ (recomputedLast first n).toNat := by omega
    rw [payloadLength_toNat hle]
    omega

/-! ### Reset and the stops -/

/-- Settles O11: the end of the stream is an empty offset element, BLKEND. -/
theorem blockEndsAtEndOfStream : Obligations.BlockEndsAtEndOfStream :=
  fun s _ hp hi => ⟨step_lOff0_eos hp hi, exec_blkend s⟩

/-- Settles O18: a reset reads the parameters alone. -/
theorem resetStartsAFreshRun : Obligations.ResetStartsAFreshRun :=
  ⟨fun s fresh => ⟨State.assertReset_inp s fresh, State.assertReset_cfg s fresh⟩,
    fun s s' fresh h => by rw [State.assertReset, State.assertReset, h],
    State.assertReset_reset_nil.symm⟩

/-- Settles O19: the fault `stopped` belongs to the two stop phases alone. -/
theorem noStepAfterAStop : Obligations.NoStepAfterAStop := by
  refine fun s => ⟨step_of_stopped, fun h => ?_⟩
  cases stopsWith_iff.mpr h with
  | stopped hp => exact hp

/-- Settles O21: the error kinds are numbered in the order of R251, and FAULT has no step. -/
theorem raiseWritesErrAndPhaseOnly : Obligations.RaiseWritesErrAndPhaseOnly := fun _ _ =>
  ⟨rfl, State.status_of_fault rfl, step_of_stopped (.inr rfl), rfl⟩

end Sys2Proof.Machine
end

section
/-! Dead registers (10_state.md section 3, R27, R28): what two states must share in each phase to step alike,
that the rows keep it, and the obligations O39 and O40. -/

namespace Sys2Proof.Machine

variable {s s' t : State}

/-! ### Agreement, phase by phase -/

/-- What `LiveAgree` says whatever PHASE is. -/
structure CommonAgree (s s' : State) : Prop where
  cfg : s.cfg = s'.cfg
  phase : s.phase = s'.phase
  err : s.err = s'.err
  inp : s.inp = s'.inp
  ipos : s.ipos = s'.ipos
  out : s.out = s'.out
  trace : s.trace = s'.trace

/-- The registers of `first`. -/
def FirstAgree (s s' : State) : Prop := s.flo = s'.flo ∧ s.fhi = s'.fhi

/-- The registers live throughout the decoder and the emitter. -/
def BlockAgree (s s' : State) : Prop :=
  FirstAgree s s' ∧ s.ctype = s'.ctype ∧ s.dbuf = s'.dbuf

/-- The registers live in phase `p`. -/
def Phase.agree (p : Phase) (s s' : State) : Prop :=
  match p with
  | .pMagic0 | .pFirst0 | .done | .fault => True
  | .pMagic1 => s.m0 = s'.m0
  | .pFirst1 => s.flo = s'.flo
  | .pLast0 | .pCtype => FirstAgree s s'
  | .pLast1 => FirstAgree s s' ∧ s.llo = s'.llo
  | .pCopy => FirstAgree s s' ∧ s.llo = s'.llo ∧ s.lhi = s'.lhi ∧ s.rem = s'.rem
  | .lToken | .eHdr => BlockAgree s s'
  | .lLitext | .lLit => BlockAgree s s' ∧ s.token = s'.token ∧ s.litlen = s'.litlen
  | .lOff0 => BlockAgree s s' ∧ s.token = s'.token
  | .lOff1 => BlockAgree s s' ∧ s.token = s'.token ∧ s.olo = s'.olo
  | .lMext | .lMatch => BlockAgree s s' ∧ s.offs = s'.offs ∧ s.mlen = s'.mlen
  | .eData => BlockAgree s s' ∧ s.eidx = s'.eidx

/-- The two parts of `LiveAgree`. -/
structure PhaseAgree (s s' : State) : Prop where
  common : CommonAgree s s'
  live : s.phase.agree s s'

theorem LiveAgree.phaseAgree (h : LiveAgree s s') : PhaseAgree s s' := by
  obtain ⟨cfg, phase, err, inp, ipos, out, trace, m0, flo, fhi, llo, lhi, rem, ctype, dbuf, token,
    litlen, olo, offs, mlen, eidx⟩ := h
  refine ⟨⟨cfg, phase, err, inp, ipos, out, trace⟩, ?_⟩
  clear phase
  cases hp : s.phase <;>
    simp_all [Phase.agree, FirstAgree, BlockAgree, Phase.hasRealHeader, Phase.isDecoder,
      Phase.isEmitter]

theorem PhaseAgree.liveAgree (h : PhaseAgree s s') : LiveAgree s s' := by
  obtain ⟨⟨cfg, phase, err, inp, ipos, out, trace⟩, live⟩ := h
  refine ⟨cfg, phase, err, inp, ipos, out, trace, ?_, ?_, ?_, ?_, ?_, ?_, ?_, ?_, ?_, ?_, ?_, ?_,
    ?_, ?_⟩ <;> clear phase <;> cases hp : s.phase <;>
    simp_all [Phase.agree, FirstAgree, BlockAgree, Phase.hasRealHeader, Phase.isDecoder,
      Phase.isEmitter]

/-! ### Every row keeps the agreement -/

theorem CommonAgree.raise (hc : CommonAgree s s') (e : ErrKind) :
    PhaseAgree (s.raise e) (s'.raise e) :=
  ⟨{ hc with phase := rfl, err := rfl }, trivial⟩

theorem CommonAgree.take (hc : CommonAgree s s') :
    CommonAgree { s with ipos := s.ipos + 1 } { s' with ipos := s'.ipos + 1 } :=
  { hc with ipos := congrArg (· + 1) hc.ipos }

theorem CommonAgree.phase_eq {p : Phase} (hc : CommonAgree s s') (hp : s.phase = p) : s'.phase = p :=
  hc.phase.symm.trans hp

theorem CommonAgree.item_eq {i : Item} (hc : CommonAgree s s') (hi : s.item = i) : s'.item = i :=
  (State.item_congr hc.inp hc.ipos).symm.trans hi

theorem BlockAgree.dbuf_eq (h : BlockAgree s s') : s.dbuf = s'.dbuf := h.2.2

theorem n_eq_of_dbuf (h : s.dbuf = s'.dbuf) : s.n = s'.n := congrArg Memory.size h

theorem CommonAgree.full_eq {b : Bool} (hc : CommonAgree s s') (hd : s.dbuf = s'.dbuf)
    (hf : s.full = b) : s'.full = b := by
  rw [← hf, State.full, State.full, hc.cfg, n_eq_of_dbuf hd]

theorem FirstAgree.first_eq (h : FirstAgree s s') : s.first = s'.first := by
  rw [State.first, State.first, h.1, h.2]

/-- The record of a re-framed segment reads live registers alone. -/
theorem BlockAgree.compressedRecord_eq (h : BlockAgree s s') :
    s.compressedRecord = s'.compressedRecord := by
  obtain ⟨hfirst, hctype, hdbuf⟩ := h
  rw [State.compressedRecord, State.compressedRecord, FirstAgree.first_eq hfirst,
    n_eq_of_dbuf hdbuf, hctype]

theorem BlockAgree.header_eq (h : BlockAgree s s') :
    [s.flo, s.fhi, lo8 (recomputedLast s.first s.n), hi8 (recomputedLast s.first s.n)] =
      [s'.flo, s'.fhi, lo8 (recomputedLast s'.first s'.n), hi8 (recomputedLast s'.first s'.n)] := by
  obtain ⟨hfirst, -, hdbuf⟩ := h
  rw [FirstAgree.first_eq hfirst, n_eq_of_dbuf hdbuf, hfirst.1, hfirst.2]

theorem backReference_eq (hd : s.dbuf = s'.dbuf) (ho : s.offs = s'.offs) :
    s.backReference = s'.backReference := by
  rw [State.backReference, State.backReference, n_eq_of_dbuf hd, hd, ho]

theorem StepTo.phaseAgree (ha : PhaseAgree s s') (h : StepTo s t) :
    ∃ t', StepTo s' t' ∧ PhaseAgree t t' := by
  obtain ⟨hc, hl⟩ := ha
  cases h
  case truncated e he hi hf =>
    refine ⟨_, .truncated (hc.phase ▸ he) (hc.item_eq hi) fun hp => ?_, hc.raise e⟩
    have hp' := hc.phase.trans hp
    rw [hp'] at hl
    exact hc.full_eq hl.1.dbuf_eq (hf hp')
  case full hp hf =>
    have hd : s.dbuf = s'.dbuf := by
      rcases hp with hp | hp <;> rw [hp] at hl <;> exact hl.1.dbuf_eq
    exact ⟨_, .full (hc.phase ▸ hp) (hc.full_eq hd hf), hc.raise _⟩
  all_goals have hp' := hc.phase_eq ‹s.phase = _›; rw [‹s.phase = _›] at hl
  case magic0 hp hi =>
    exact ⟨_, .magic0 hp' (hc.item_eq hi), { hc.take with phase := rfl }, rfl⟩
  case badMagic hp hi h =>
    exact ⟨_, .badMagic hp' (hc.item_eq hi) (hl ▸ h), hc.take.raise _⟩
  case fileHeader hp hi hm =>
    exact ⟨_, .fileHeader hp' (hc.item_eq hi) (hl ▸ hm),
      { hc.take with phase := rfl, out := congrArg (· ++ _) hc.out }, trivial⟩
  case cleanStop hp hi =>
    exact ⟨_, .cleanStop hp' (hc.item_eq hi), { hc with phase := rfl }, trivial⟩
  case firstLo hp hi =>
    exact ⟨_, .firstLo hp' (hc.item_eq hi), { hc.take with phase := rfl }, rfl⟩
  case dummy hp hi hm =>
    exact ⟨_, .dummy hp' (hc.item_eq hi) (hl ▸ hm), { hc.take with phase := rfl }, trivial⟩
  case firstHi hp hi h =>
    exact ⟨_, .firstHi hp' (hc.item_eq hi) (hl ▸ h), { hc.take with phase := rfl }, hl, rfl⟩
  case lastLo hp hi =>
    exact ⟨_, .lastLo hp' (hc.item_eq hi), { hc.take with phase := rfl }, hl, rfl⟩
  case normalHeader x hp hi h =>
    obtain ⟨⟨hflo, hfhi⟩, hllo⟩ := hl
    rw [hflo, hfhi, hllo] at h ⊢
    exact ⟨_, .normalHeader hp' (hc.item_eq hi) h,
      { hc.take with phase := rfl, out := congrArg (· ++ _) hc.out },
      ⟨rfl, rfl⟩, rfl, rfl, rfl⟩
  case compressedHeader x hp hi h =>
    obtain ⟨⟨hflo, hfhi⟩, hllo⟩ := hl
    rw [hflo, hfhi, hllo] at h
    exact ⟨_, .compressedHeader hp' (hc.item_eq hi) h, { hc.take with phase := rfl }, hflo, hfhi⟩
  case payload x hp hi h =>
    obtain ⟨hfirst, hllo, hlhi, hrem⟩ := hl
    exact ⟨_, .payload hp' (hc.item_eq hi) (hrem ▸ h),
      { hc.take with phase := rfl, out := congrArg (· ++ _) hc.out },
      hfirst, hllo, hlhi, congrArg (· - 1) hrem⟩
  case payloadLast x hp hi h =>
    obtain ⟨hfirst, hllo, hlhi, hrem⟩ := hl
    have hlast : s.last = s'.last := by rw [State.last, State.last, hllo, hlhi]
    rw [FirstAgree.first_eq hfirst, hlast]
    exact ⟨_, .payloadLast hp' (hc.item_eq hi) (hrem ▸ h),
      { hc.take with
        phase := rfl, out := congrArg (· ++ _) hc.out, trace := congrArg (· ++ _) hc.trace }, trivial⟩
  case ctype hp hi =>
    exact ⟨_, .ctype hp' (hc.item_eq hi), { hc.take with phase := rfl }, hl, rfl, rfl⟩
  case token x hp hi =>
    refine ⟨_, .token hp' (hc.item_eq hi), { hc.take with phase := rfl }, ?_⟩
    show Phase.agree (if _ then _ else _) _ _
    split_ifs
    · exact ⟨hl, rfl, rfl⟩
    · exact ⟨hl, rfl, rfl⟩
    · exact ⟨hl, rfl⟩
  case literalExt x hp hi =>
    obtain ⟨hb, htoken, hlen⟩ := hl
    refine ⟨_, .literalExt hp' (hc.item_eq hi), { hc.take with phase := rfl }, ?_⟩
    show Phase.agree (if _ then _ else _) _ _
    split_ifs <;> exact ⟨hb, htoken, congrArg (· + _) hlen⟩
  case literal x hp hf hi h =>
    obtain ⟨⟨hfirst, hctype, hd⟩, htoken, hlen⟩ := hl
    rw [hd, hlen]
    refine ⟨_, .literal hp' (hc.full_eq hd hf) (hc.item_eq hi) (hlen ▸ h), { hc.take with phase := rfl }, ?_⟩
    show Phase.agree (if _ then _ else _) _ _
    split_ifs
    · exact ⟨⟨hfirst, hctype, rfl⟩, htoken⟩
    · exact ⟨⟨hfirst, hctype, rfl⟩, htoken, rfl⟩
  case blockEnd hp hi =>
    exact ⟨_, .blockEnd hp' (hc.item_eq hi), { hc with phase := rfl }, hl.1⟩
  case offsetLo x hp hi =>
    exact ⟨_, .offsetLo hp' (hc.item_eq hi), { hc.take with phase := rfl }, hl.1, hl.2, rfl⟩
  case corrupt x hp hi h =>
    obtain ⟨⟨-, -, hd⟩, -, holo⟩ := hl
    rw [holo, n_eq_of_dbuf hd] at h
    exact ⟨_, .corrupt hp' (hc.item_eq hi) h, hc.take.raise _⟩
  case offset x hp hi h1 hn =>
    obtain ⟨hb, htoken, holo⟩ := hl
    rw [holo] at h1 hn ⊢
    rw [htoken]
    refine ⟨_, .offset hp' (hc.item_eq hi) h1 (hn.trans (n_eq_of_dbuf hb.dbuf_eq).le),
      { hc.take with phase := rfl }, ?_⟩
    show Phase.agree (if _ then _ else _) _ _
    split_ifs <;> exact ⟨hb, rfl, rfl⟩
  case matchExt x hp hi =>
    obtain ⟨hb, hoffs, hlen⟩ := hl
    refine ⟨_, .matchExt hp' (hc.item_eq hi), { hc.take with phase := rfl }, ?_⟩
    show Phase.agree (if _ then _ else _) _ _
    split_ifs <;> exact ⟨hb, hoffs, congrArg (· + _) hlen⟩
  case copy b hp hf h hb =>
    obtain ⟨⟨hfirst, hctype, hd⟩, hoffs, hlen⟩ := hl
    have hb' := (backReference_eq hd hoffs).symm.trans hb
    rw [hd, hlen]
    refine ⟨_, .copy hp' (hc.full_eq hd hf) (hlen ▸ h) hb', { hc with phase := rfl }, ?_⟩
    show Phase.agree (if _ then _ else _) _ _
    split_ifs
    · exact ⟨hfirst, hctype, rfl⟩
    · exact ⟨⟨hfirst, hctype, rfl⟩, hoffs, rfl⟩
  case emptyHeader hp hn =>
    rw [BlockAgree.header_eq hl, BlockAgree.compressedRecord_eq hl]
    exact ⟨_, .emptyHeader hp' ((n_eq_of_dbuf (BlockAgree.dbuf_eq hl)).symm.trans hn),
      { hc with
        phase := rfl, out := congrArg (· ++ _) hc.out, trace := congrArg (· ++ _) hc.trace }, trivial⟩
  case header hp hn =>
    rw [BlockAgree.header_eq hl]
    exact ⟨_, .header hp' (n_eq_of_dbuf (BlockAgree.dbuf_eq hl) ▸ hn),
      { hc with phase := rfl, out := congrArg (· ++ _) hc.out }, hl, rfl⟩
  case data b hp hb h =>
    obtain ⟨hblock, heidx⟩ := hl
    rw [hblock.dbuf_eq, heidx] at hb
    rw [n_eq_of_dbuf hblock.dbuf_eq, heidx] at h
    exact ⟨_, .data hp' hb h,
      { hc with phase := rfl, out := congrArg (· ++ _) hc.out },
      hblock, congrArg (· + 1) heidx⟩
  case dataLast b hp hb h =>
    obtain ⟨hblock, heidx⟩ := hl
    rw [hblock.dbuf_eq, heidx] at hb
    rw [n_eq_of_dbuf hblock.dbuf_eq, heidx] at h
    rw [BlockAgree.compressedRecord_eq hblock]
    exact ⟨_, .dataLast hp' hb h,
      { hc with
        phase := rfl, out := congrArg (· ++ _) hc.out, trace := congrArg (· ++ _) hc.trace }, trivial⟩

theorem StopsWith.phaseAgree {f : Fault} (ha : PhaseAgree s s') (h : StopsWith s f) :
    StopsWith s' f := by
  obtain ⟨hc, hl⟩ := ha
  cases h
  case stopped hp => exact .stopped (hc.phase ▸ hp)
  all_goals have hp' := hc.phase_eq ‹s.phase = _›; rw [‹s.phase = _›] at hl
  case noPayload hp hi h =>
    obtain ⟨-, -, -, hrem⟩ := hl
    exact .noPayload hp' (hc.item_eq hi) (hrem ▸ h)
  case noLiteral hp hf hi h =>
    obtain ⟨hblock, -, hlen⟩ := hl
    exact .noLiteral hp' (hc.full_eq hblock.dbuf_eq hf) (hc.item_eq hi) (hlen.symm.trans h)
  case noMatch hp hf h =>
    obtain ⟨hblock, -, hlen⟩ := hl
    exact .noMatch hp' (hc.full_eq hblock.dbuf_eq hf) (hlen.symm.trans h)
  case noBackReference hp hf h hb =>
    obtain ⟨hblock, hoffs, hlen⟩ := hl
    exact .noBackReference hp' (hc.full_eq hblock.dbuf_eq hf) (hlen ▸ h)
      ((backReference_eq hblock.dbuf_eq hoffs).symm.trans hb)
  case noData hp hb =>
    rw [hl.1.dbuf_eq, hl.2] at hb
    exact .noData hp' hb

/-- Settles O39: the rows and the stops of a state read nothing but what `PhaseAgree` compares. -/
theorem deadRegistersDoNotMatter : Obligations.DeadRegistersDoNotMatter := by
  refine fun s s' h => ⟨fun t hstep => ?_, fun f hstep => ?_⟩
  · obtain ⟨t', hrow, ha⟩ := (stepTo_iff.mpr hstep).phaseAgree h.phaseAgree
    exact ⟨t', hrow.step_eq, ha.liveAgree⟩
  · exact ((stopsWith_iff.mpr hstep).phaseAgree h.phaseAgree).step_eq

/-! ### Runs -/

/-- Agreement is kept along a run, and a stop is met by both (log 6). -/
theorem run_of_phaseAgree (k : Nat) (ha : PhaseAgree s s') :
    (∀ t, core.run k s = .next t → ∃ t', core.run k s' = .next t' ∧ PhaseAgree t t') ∧
      (∀ f, core.run k s = .fault f → core.run k s' = .fault f) := by
  induction k generalizing s s' with
  | zero =>
    refine ⟨fun t h => ?_, fun f h => by cases h⟩
    obtain rfl := Host.Outcome.next.inj h
    exact ⟨s', rfl, ha⟩
  | succ k ih =>
    rcases hasRow s with ⟨u, hu⟩ | ⟨g, hg⟩
    · obtain ⟨u', hu', ha'⟩ := hu.phaseAgree ha
      rw [run_succ_of_next k hu.step_eq, run_succ_of_next k hu'.step_eq]
      exact ih ha'
    · have hg' := hg.phaseAgree ha
      rw [run_succ_of_fault k hg.step_eq, run_succ_of_fault k hg'.step_eq]
      exact ⟨fun _ h => (by cases h), fun _ h => h⟩

/-- Settles O40: in P_MAGIC0 no data register is live, so any start agrees with the model's zeros. -/
theorem resetRegisterValuesDoNotMatter : Obligations.ResetRegisterValuesDoNotMatter := by
  intro s k hp herr hpos hout htrace
  have hc : CommonAgree s (State.load s.cfg s.inp) := ⟨rfl, hp, herr, rfl, hpos, hout, htrace⟩
  have hl : s.phase.agree s (State.load s.cfg s.inp) := by
    rw [hp]
    trivial
  obtain ⟨hnext, hfault⟩ := run_of_phaseAgree k ⟨hc, hl⟩
  refine ⟨fun t hrun => ?_, hfault⟩
  obtain ⟨t', hrun', ⟨-, phase, err, -, ipos, out, trace⟩, -⟩ := hnext t hrun
  exact ⟨t', hrun', phase.symm, err.symm, ipos.symm, out.symm, trace.symm⟩

end Sys2Proof.Machine
end

section
/-! Finite counters (43_control_and_arithmetic.md section 3, R241): LITLEN and MLEN may differ where both
exceed the room left in DBUF, that every row keeps this, and the obligation O55. -/

namespace Sys2Proof.Machine

variable {s t : State} {c l m : Nat}

/-! ### Counters that give the same run -/

/-- The state with other values in LITLEN and MLEN. -/
def State.withCounters (s : State) (l m : Nat) : State := { s with litlen := l, mlen := m }

/-- Two values of a counter are equal, or both exceed the room left with `n` of `c` bytes used: then
CapacityFault comes before either has been counted down. -/
def CounterAgree (c n v v' : Nat) : Prop := v = v' ∨ (c < n + v ∧ c < n + v')

/-- `l` and `m` may stand for LITLEN and MLEN where these are still read. -/
structure CountersAgree (c : Nat) (s : State) (l m : Nat) : Prop where
  literals : s.phase = .lLitext ∨ s.phase = .lLit → CounterAgree c s.n s.litlen l
  matching : s.phase = .lMext ∨ s.phase = .lMatch → CounterAgree c s.n s.mlen m

theorem CounterAgree.add {n v v' : Nat} (h : CounterAgree c n v v') (x : Nat) :
    CounterAgree c n (v + x) (v' + x) := by
  rcases h with h | ⟨h, h'⟩
  · exact .inl (congrArg (· + x) h)
  · exact .inr ⟨by omega, by omega⟩

/-- A byte appended and counted. -/
theorem CounterAgree.count {n v v' : Nat} (h : CounterAgree c n v v') :
    CounterAgree c (n + 1) (v - 1) (v' - 1) := by
  rcases h with h | ⟨h, h'⟩
  · exact .inl (congrArg (· - 1) h)
  · exact .inr ⟨by omega, by omega⟩

/-- Where there is room, both are 0 or neither, and both are 1 or neither. -/
theorem CounterAgree.small_iff {n v v' k : Nat} (h : CounterAgree c n v v') (hroom : n + 1 ≤ c)
    (hk : k ≤ 1) : v = k ↔ v' = k := by
  rcases h with h | ⟨h, h'⟩
  · rw [h]
  · omega

theorem CounterAgree.saturate {n v v' : Nat} (h : CounterAgree c n v v') :
    CounterAgree c n v (min v' (c + 1)) := by
  rcases h with h | ⟨h, h'⟩
  · rcases le_or_gt v' (c + 1) with hle | hgt
    · exact .inl (by omega)
    · exact .inr ⟨by omega, by omega⟩
  · exact .inr ⟨h, by omega⟩

theorem CountersAgree.saturate (h : CountersAgree c s l m) :
    CountersAgree c s (min l (c + 1)) (min m (c + 1)) :=
  ⟨fun hp => (h.literals hp).saturate, fun hp => (h.matching hp).saturate⟩

/-- Where neither counter is read any value will do. -/
theorem countersAgree_of_unread (h1 : ¬ (s.phase = .lLitext ∨ s.phase = .lLit))
    (h2 : ¬ (s.phase = .lMext ∨ s.phase = .lMatch)) : CountersAgree c s l m :=
  ⟨fun h => absurd h h1, fun h => absurd h h2⟩

theorem countersAgree_of_literals (h : CounterAgree c s.n s.litlen l)
    (h2 : ¬ (s.phase = .lMext ∨ s.phase = .lMatch)) : CountersAgree c s l m :=
  ⟨fun _ => h, fun h => absurd h h2⟩

theorem countersAgree_of_matching (h1 : ¬ (s.phase = .lLitext ∨ s.phase = .lLit))
    (h : CounterAgree c s.n s.mlen m) : CountersAgree c s l m :=
  ⟨fun h => absurd h h1, fun _ => h⟩

/-! ### Every row keeps the agreement -/

theorem StepTo.countersAgree (hcap : s.cfg.decCap = some c) (ha : CountersAgree c s l m)
    (h : StepTo s t) :
    ∃ l' m', StepTo (s.withCounters l m) (t.withCounters l' m') ∧ CountersAgree c t l' m' := by
  cases h
  case token x hp hi =>
    refine ⟨x.toNat / 16, m, .token hp hi, countersAgree_of_literals (.inl rfl) ?_⟩
    dsimp only
    split_ifs <;> simp
  case literalExt x hp hi =>
    refine ⟨l + x.toNat, m, .literalExt hp hi,
      countersAgree_of_literals ((ha.literals (.inl hp)).add x.toNat) ?_⟩
    dsimp only
    split_ifs <;> simp
  case literal x hp hf hi h =>
    have hv := ha.literals (.inr hp)
    have hroom := State.room_of_not_full hf c hcap
    have h0 : s.litlen = 0 ↔ l = 0 := hv.small_iff hroom (by omega)
    have h1 : s.litlen - 1 = 0 ↔ l - 1 = 0 := by
      have := hv.small_iff hroom (le_refl 1)
      omega
    have hrow := StepTo.literal (s := s.withCounters l m) hp hf hi (by
      show 1 ≤ l
      omega)
    simp only [h1]
    refine ⟨l - 1, m, hrow, countersAgree_of_literals ?_ ?_⟩
    · simpa [State.n] using hv.count
    · dsimp only
      split_ifs <;> simp
  case offset x hp hi h1 hn =>
    refine ⟨l, 4 + s.token.toNat % 16, .offset hp hi h1 hn, countersAgree_of_matching ?_ (.inl rfl)⟩
    dsimp only
    split_ifs <;> simp
  case matchExt x hp hi =>
    refine ⟨l, m + x.toNat, .matchExt hp hi,
      countersAgree_of_matching ?_ ((ha.matching (.inl hp)).add x.toNat)⟩
    dsimp only
    split_ifs <;> simp
  case copy b hp hf h hb =>
    have hv := ha.matching (.inr hp)
    have hroom := State.room_of_not_full hf c hcap
    have h0 : s.mlen = 0 ↔ m = 0 := hv.small_iff hroom (by omega)
    have h1 : s.mlen - 1 = 0 ↔ m - 1 = 0 := by
      have := hv.small_iff hroom (le_refl 1)
      omega
    have hrow := StepTo.copy (s := s.withCounters l m) hp hf (by
      show 1 ≤ m
      omega) hb
    simp only [h1]
    refine ⟨l, m - 1, hrow, countersAgree_of_matching ?_ ?_⟩
    · dsimp only
      split_ifs <;> simp
    · simpa [State.n] using hv.count
  all_goals refine ⟨l, m, ?_, countersAgree_of_unread (by simp) (by simp)⟩
  case truncated he hi hf => exact .truncated (s := s.withCounters l m) he hi hf
  case full hp hf => exact .full (s := s.withCounters l m) hp hf
  case magic0 hp hi => exact .magic0 hp hi
  case badMagic hp hi h => exact .badMagic (s := s.withCounters l m) hp hi h
  case fileHeader hp hi hm => exact .fileHeader hp hi hm
  case cleanStop hp hi => exact .cleanStop hp hi
  case firstLo hp hi => exact .firstLo hp hi
  case dummy hp hi hm => exact .dummy hp hi hm
  case firstHi hp hi h => exact .firstHi hp hi h
  case lastLo hp hi => exact .lastLo hp hi
  case normalHeader hp hi h => exact .normalHeader hp hi h
  case compressedHeader hp hi h => exact .compressedHeader hp hi h
  case payload hp hi h => exact .payload hp hi h
  case payloadLast hp hi h => exact .payloadLast (s := s.withCounters l m) hp hi h
  case ctype hp hi => exact .ctype hp hi
  case blockEnd hp hi => exact .blockEnd hp hi
  case offsetLo hp hi => exact .offsetLo hp hi
  case corrupt hp hi h => exact .corrupt (s := s.withCounters l m) hp hi h
  case emptyHeader hp hn => exact .emptyHeader (s := s.withCounters l m) hp hn
  case header hp hn => exact .header (s := s.withCounters l m) hp hn
  case data hp hb h => exact .data (s := s.withCounters l m) hp hb h
  case dataLast hp hb h => exact .dataLast (s := s.withCounters l m) hp hb h

theorem StopsWith.countersAgree {f : Fault} (hcap : s.cfg.decCap = some c)
    (ha : CountersAgree c s l m) (h : StopsWith s f) : StopsWith (s.withCounters l m) f := by
  cases h
  case stopped hp => exact .stopped hp
  case noPayload hp hi h => exact .noPayload hp hi h
  case noLiteral hp hf hi h =>
    have hroom := State.room_of_not_full hf c hcap
    exact .noLiteral hp hf hi (((ha.literals (.inr hp)).small_iff hroom (by omega)).mp h)
  case noMatch hp hf h =>
    have hroom := State.room_of_not_full hf c hcap
    exact .noMatch hp hf (((ha.matching (.inr hp)).small_iff hroom (by omega)).mp h)
  case noBackReference hp hf h hb =>
    have hroom := State.room_of_not_full hf c hcap
    exact .noBackReference hp hf
      (mt ((ha.matching (.inr hp)).small_iff hroom (by omega)).mpr h) hb
  case noData hp hb => exact .noData hp hb

/-! ### Runs -/

theorem saturatedRun_succ_of_next {k : Nat} (h : step s = .next t) :
    saturatedRun c (k + 1) s = saturatedRun c k (t.saturate c) := by
  simp only [saturatedRun, h]

theorem saturatedRun_succ_of_fault {k : Nat} {f : Fault} (h : step s = .fault f) :
    saturatedRun c (k + 1) s = .fault f := by
  simp only [saturatedRun, h]

theorem State.saturate_withCounters (s : State) (c l m : Nat) :
    (s.withCounters l m).saturate c = s.withCounters (min l (c + 1)) (min m (c + 1)) := rfl

/-- The saturating run stays with the run, but for the values of the two counters. -/
theorem saturatedRun_of_countersAgree (k : Nat) (hcap : s.cfg.decCap = some c)
    (ha : CountersAgree c s l m) :
    (∀ t, core.run k s = .next t →
      ∃ l' m', saturatedRun c k (s.withCounters l m) = .next (t.withCounters l' m')) ∧
    (∀ f, core.run k s = .fault f → saturatedRun c k (s.withCounters l m) = .fault f) := by
  induction k generalizing s l m with
  | zero =>
    refine ⟨fun t h => ?_, fun f h => by cases h⟩
    obtain rfl := Host.Outcome.next.inj h
    exact ⟨l, m, rfl⟩
  | succ k ih =>
    rcases hasRow s with ⟨u, hu⟩ | ⟨g, hg⟩
    · obtain ⟨l', m', hu', ha'⟩ := hu.countersAgree hcap ha
      rw [run_succ_of_next k hu.step_eq, saturatedRun_succ_of_next hu'.step_eq,
        State.saturate_withCounters]
      exact ih (hu.inp_cfg_eq.2 ▸ hcap) ha'.saturate
    · have hg' := hg.countersAgree hcap ha
      rw [run_succ_of_fault k hg.step_eq, saturatedRun_succ_of_fault hg'.step_eq]
      exact ⟨fun _ h => (by cases h), fun _ h => h⟩

/-- Settles O55: a run starts with equal counters, and the saturated value exceeds the room left as the other
does. -/
theorem saturatedCountersGiveTheSameRun : Obligations.SaturatedCountersGiveTheSameRun := by
  intro c rule input k
  have ha : CountersAgree c (State.load ⟨some c, rule⟩ input) 0 0 :=
    countersAgree_of_unread (by simp) (by simp)
  obtain ⟨hnext, hfault⟩ := saturatedRun_of_countersAgree k rfl ha
  refine ⟨fun t hrun => ?_, hfault⟩
  obtain ⟨l, m, hrun'⟩ := hnext t hrun
  exact ⟨t.withCounters l m, hrun', rfl, rfl, rfl, rfl, rfl, rfl⟩

end Sys2Proof.Machine
end

section
/-! Runs of the decoder over one length or one match (41_lz4_decoder.md): the length extensions and the copy
against the loops of the reference function, and the obligations O51 and O52. -/

namespace Sys2Proof.Machine

variable {s t u : State}

/-! ### Reachable states -/

/-- A run leads from `s` to `t`. -/
def Reaches (s t : State) : Prop := ∃ k, core.run k s = .next t

theorem Reaches.refl (s : State) : Reaches s s := ⟨0, run_zero s⟩

theorem Reaches.trans (h : Reaches s t) (h' : Reaches t u) : Reaches s u := by
  obtain ⟨j, hj⟩ := h
  obtain ⟨k, hk⟩ := h'
  exact ⟨j + k, (run_add j k hj).trans hk⟩

theorem StepTo.reaches (h : StepTo s t) : Reaches s t := ⟨1, h.run_one⟩

theorem StepTo.reaches_trans (h : StepTo s t) (h' : Reaches t u) : Reaches s u := h.reaches.trans h'

/-- What every row keeps, every run keeps. -/
theorem Reaches.induction {P : State → Prop} (h : Reaches s t) (hs : P s)
    (keeps : ∀ u v, P u → StepTo u v → P v) : P t := by
  obtain ⟨k, hk⟩ := h
  exact run_induction (fun u v hu hv => keeps u v hu (stepTo_iff.mpr hv)) k hs hk

theorem Reaches.inp_cfg_eq (h : Reaches s t) : t.inp = s.inp ∧ t.cfg = s.cfg :=
  h.induction (P := fun u => u.inp = s.inp ∧ u.cfg = s.cfg) ⟨rfl, rfl⟩ fun _ _ hu hv =>
    ⟨hv.inp_cfg_eq.1.trans hu.1, hv.inp_cfg_eq.2.trans hu.2⟩

theorem Reaches.cursor_le (h : Reaches s t) (hs : s.ipos ≤ s.inp.length) : t.ipos ≤ t.inp.length :=
  h.induction (P := fun u => u.ipos ≤ u.inp.length) hs fun u v hu hv => by
    rw [hv.inp_cfg_eq.1]
    rcases hv.ipos_cases with hpos | ⟨hpos, hlt⟩ <;> omega

theorem Reaches.ipos_le (h : Reaches s t) : s.ipos ≤ t.ipos :=
  h.induction (P := fun u => s.ipos ≤ u.ipos) le_rfl fun u v hu hv => by
    rcases hv.ipos_cases with hpos | ⟨hpos, -⟩ <;> omega

theorem Reaches.rest_length_le (h : Reaches s t) : t.rest.length ≤ s.rest.length := by
  have := h.ipos_le
  simp only [State.rest, List.length_drop, h.inp_cfg_eq.1]
  omega

/-! ### The two counters of a length extension -/

/-- LITLEN and MLEN, which are extended in the same way (R163, R169). -/
inductive LengthCounter where
  | literal | matching

/-- The phase that takes the extension bytes. -/
def LengthCounter.extPhase : LengthCounter → Phase
  | .literal => .lLitext
  | .matching => .lMext

/-- The phase that counts the length down. -/
def LengthCounter.copyPhase : LengthCounter → Phase
  | .literal => .lLit
  | .matching => .lMatch

def State.count (s : State) : LengthCounter → Nat
  | .literal => s.litlen
  | .matching => s.mlen

def State.setCount (s : State) (c : LengthCounter) (v : Nat) : State :=
  match c with
  | .literal => { s with litlen := v }
  | .matching => { s with mlen := v }

section Counter

variable (c : LengthCounter) (v : Nat)

/-- The state in which `k` more bytes have been taken, the counter of `c` is `v` and PHASE is `p`. -/
def State.extended (s : State) (k v : Nat) (p : Phase) : State :=
  ({ s with ipos := s.ipos + k }.setCount c v).goto p

theorem State.extended_phase (s : State) (k : Nat) (p : Phase) :
    (s.extended c k v p).phase = p := rfl

theorem State.extended_count (s : State) (k : Nat) (p : Phase) :
    (s.extended c k v p).count c = v := by
  cases c <;> rfl

theorem State.extended_ipos (s : State) (k : Nat) (p : Phase) :
    (s.extended c k v p).ipos = s.ipos + k := by
  cases c <;> rfl

theorem State.extended_inp (s : State) (k : Nat) (p : Phase) :
    (s.extended c k v p).inp = s.inp := by
  cases c <;> rfl

theorem State.extended_extended (s : State) (j k w : Nat) (p q : Phase) :
    (s.extended c j v p).extended c k w q = s.extended c (k + j) w q := by
  cases c <;> simp [State.extended, State.setCount, State.goto, Nat.add_assoc, Nat.add_comm j k]

/-- Rows 26, 27, 39 and 40 in one. -/
theorem StepTo.extension {x : Byte} (hp : s.phase = c.extPhase) (hi : s.item = .byte x) :
    StepTo s (s.extended c 1 (s.count c + x.toNat)
      (if x = 0xFF then c.extPhase else c.copyPhase)) := by
  cases c with
  | literal => exact .literalExt hp hi
  | matching => exact .matchExt hp hi

end Counter

/-! ### The extension loop of the reference function -/

/-- The loop takes at least one byte. -/
theorem refExtension_suffix {bytes rest : List Byte} {acc v : Nat}
    (h : refExtension bytes acc = some (v, rest)) : ∃ pre, bytes = pre ++ rest ∧ pre ≠ [] := by
  induction bytes generalizing acc with
  | nil => cases h
  | cons e more ih =>
    rw [refExtension] at h
    split_ifs at h
    · obtain ⟨pre, rfl, -⟩ := ih h
      exact ⟨e :: pre, rfl, by simp⟩
    · cases h
      exact ⟨[e], rfl, by simp⟩

/-- The loop over the extension bytes of a length (R165). -/
theorem refExtension_extensionBytes {v : Nat} (hv : 15 ≤ v) (more : List Byte) (acc : Nat) :
    refExtension (extensionBytes v ++ more) acc = some (acc + (v - 15), more) := by
  have hloop : ∀ q acc, refExtension (List.replicate q 0xFF ++
      BitVec.ofNat 8 ((v - 15) % 255) :: more) acc = some (acc + 255 * q + (v - 15) % 255, more) := by
    intro q
    induction q with
    | zero =>
      intro acc
      have hlt : (v - 15) % 255 < 255 := Nat.mod_lt _ (by decide)
      have hne : BitVec.ofNat 8 ((v - 15) % 255) ≠ 0xFF := by
        intro h
        have := congrArg BitVec.toNat h
        simp at this
        omega
      have hnat : (BitVec.ofNat 8 ((v - 15) % 255)).toNat = (v - 15) % 255 := by
        rw [BitVec.toNat_ofNat]
        omega
      rw [List.replicate_zero, List.nil_append, refExtension, if_neg hne, hnat]
      rfl
    | succ q ih =>
      intro acc
      rw [List.replicate_succ, List.cons_append, refExtension, if_pos rfl, ih]
      exact congrArg (fun w => some (w, more)) (by omega)
  rw [extensionBytes, if_neg (by omega), List.append_assoc, List.singleton_append, hloop,
    Nat.add_assoc, Nat.div_add_mod]

/-- The run over the bytes of a length extension, one step each. -/
theorem run_extension (c : LengthCounter) {pre rest : List Byte} {v : Nat}
    (hp : s.phase = c.extPhase) (hr : s.rest = pre ++ rest)
    (h : refExtension (pre ++ rest) (s.count c) = some (v, rest)) :
    core.run pre.length s = .next (s.extended c pre.length v c.copyPhase) := by
  induction pre generalizing s with
  | nil =>
    obtain ⟨pre, hpre, hne⟩ := refExtension_suffix h
    exact absurd (List.append_cancel_right hpre).symm hne
  | cons e pre ih =>
    have hrow := StepTo.extension c hp (State.item_of_rest_cons hr)
    rw [List.cons_append, refExtension] at h
    split_ifs at h hrow with he
    · subst he
      refine hrow.run_succ ?_
      rw [ih (State.extended_phase ..)
        (State.rest_of_taken hr (State.extended_inp ..) (State.extended_ipos ..)) (by
          rwa [State.extended_count]), State.extended_extended]
      rfl
    · obtain ⟨rfl, hnil⟩ : s.count c + e.toNat = v ∧ pre = [] := by simpa using h
      subst hnil
      exact hrow.run_one

/-- Settles O51: the run over the extension bytes is the loop of the reference function. -/
theorem extensionBytesGiveTheLength : Obligations.ExtensionBytesGiveTheLength := by
  intro s v hv hin
  obtain ⟨more, hr⟩ := hin
  replace hr : s.rest = extensionBytes v ++ more := hr.symm
  refine ⟨fun hp hlen => ?_, fun hp hlen => ?_⟩
  · refine run_extension .literal hp hr ?_
    rw [refExtension_extensionBytes hv, State.count, hlen, Nat.add_sub_cancel' hv]
  · refine run_extension .matching hp hr ?_
    rw [refExtension_extensionBytes hv, State.count, hlen]
    exact congrArg (fun w => some (w, more)) (by omega)

/-! ### The copy loop of the reference function -/

theorem refFull_bytes (s : State) : refFull s.cfg.decCap s.dbuf.bytes = s.full := by
  unfold refFull State.full
  rw [Memory.bytes_length]
  rfl

/-- With room the loop appends the last `off` bytes cyclically (R172). -/
theorem refCopy_cyclic {cap : Option Nat} {off : Nat} (rest : List Byte) (k : Nat) {d : List Byte}
    (hroom : ∀ c, cap = some c → d.length + k ≤ c) (h1 : 1 ≤ off) (hn : off ≤ d.length) :
    ∃ copied, refCopy cap off rest k d = .going (d ++ copied) rest ∧ copied.length = k ∧
      ∀ j, j < k → copied[j]? = d[d.length - off + j % off]? := by
  induction k generalizing d with
  | zero => exact ⟨[], by simp [refCopy], rfl, by simp⟩
  | succ k ih =>
    have hfull : refFull cap d = false := by
      cases cap with
      | none => rfl
      | some c =>
        have := hroom c rfl
        simp only [refFull, decide_eq_false_iff_not]
        omega
    have hlt : d.length - off < d.length := by omega
    obtain ⟨copied, hcopy, hlen, hget⟩ := ih (d := d ++ [d[d.length - off]])
      (fun c hc => by
        have := hroom c hc
        simp
        omega) (by simp; omega)
    refine ⟨d[d.length - off] :: copied, ?_, by simp [hlen], fun j hj => ?_⟩
    · simpa [refCopy, hfull, List.getElem?_eq_getElem hlt] using hcopy
    · cases j with
      | zero => simp [List.getElem?_eq_getElem hlt]
      | succ j =>
        rw [List.getElem?_cons_succ, hget j (by omega), List.length_append, List.length_singleton]
        have hmod : j % off < off := Nat.mod_lt _ h1
        rcases Nat.lt_or_ge (j % off + 1) off with hless | hge
        · have hnext : (j + 1) % off = j % off + 1 := by
            rw [Nat.add_mod, Nat.mod_eq_of_lt (a := 1) (by omega), Nat.mod_eq_of_lt hless]
          rw [hnext, List.getElem?_append_left (by omega)]
          exact congrArg (d[·]?) (by omega)
        · have hnext : (j + 1) % off = 0 := by
            rw [Nat.add_mod, show j % off = off - 1 by omega]
            rcases Nat.eq_or_lt_of_le h1 with hone | hmore
            · simp [← hone]
            · rw [Nat.mod_eq_of_lt (a := 1) hmore, Nat.sub_add_cancel h1, Nat.mod_self]
          rw [hnext, show d.length + 1 - off + j % off = d.length by omega, List.getElem?_concat_length,
            Nat.add_zero, List.getElem?_eq_getElem hlt]

/-- The run that copies `k` bytes of a match, where the loop does not meet a full buffer. -/
theorem run_copy (rest : List Byte) (k : Nat) {d rest' : List Byte}
    (hp : s.phase = if k = 0 then .lToken else .lMatch) (hk : s.mlen = k) (hwf : s.dbuf.wf)
    (h1 : 1 ≤ s.offs.toNat) (hn : s.offs.toNat ≤ s.n)
    (h : refCopy s.cfg.decCap s.offs.toNat rest k s.dbuf.bytes = .going d rest') :
    ∃ buf : Memory, core.run k s = .next { s with dbuf := buf, mlen := 0, phase := .lToken } ∧
      buf.wf ∧ buf.bytes = d ∧ rest' = rest := by
  induction k generalizing s with
  | zero =>
    cases h
    replace hp : s.phase = .lToken := hp
    have hsame : s = { s with mlen := 0, phase := .lToken } := by rw [← hk, ← hp]
    exact ⟨s.dbuf, congrArg Host.Outcome.next hsame, hwf, rfl, rfl⟩
  | succ k ih =>
    obtain ⟨b, hread, hb⟩ := State.exists_backReference hwf h1 hn
    rw [refCopy, refFull_bytes] at h
    split_ifs at h with hf
    rw [Memory.read_eq_bytes hwf] at hread
    rw [Memory.bytes_length, show s.dbuf.size = s.n from rfl, hread, Option.toList_some,
      ← Memory.append_bytes] at h
    have hrow := StepTo.copy hp (by simpa using hf) (by omega) hb
    rw [hk, Nat.add_sub_cancel] at hrow
    obtain ⟨buf, hrun, hbuf⟩ := ih
      (s := { s with
        dbuf := s.dbuf.append b, mlen := k, phase := if k = 0 then .lToken else .lMatch })
      rfl rfl (Memory.append_wf hwf b) h1 (hn.trans (by simp [State.n])) h
    exact ⟨buf, hrow.run_succ hrun, hbuf⟩

/-- Settles O52: with room the copy loop does not meet a full buffer, and its result is the cyclic one. -/
theorem wholeMatchRepeatsTheLastBytes : Obligations.WholeMatchRepeatsTheLastBytes := by
  intro s hp hwf hm h1 hn hroom
  have hlen : s.dbuf.bytes.length = s.n := Memory.bytes_length s.dbuf
  obtain ⟨copied, hcopy, hcopied, hget⟩ := refCopy_cyclic (cap := s.cfg.decCap) [] s.mlen
    (fun c hc => hlen ▸ hroom c hc) h1 (hlen ▸ hn)
  obtain ⟨buf, hrun, hbuf, hbytes, -⟩ := run_copy [] s.mlen
    (by rw [hp, if_neg (by omega)]) rfl hwf h1 hn hcopy
  exact ⟨_, copied, hrun, rfl, hbuf, hbytes, hcopied, hlen ▸ hget⟩

end Sys2Proof.Machine
end

section
/-! The LZ4 block (41_lz4_decoder.md) against the decoder of the reference function
(43_control_and_arithmetic.md R230): the steps of the machine follow its loops, to the same bytes or the same
error. -/

namespace Sys2Proof.Machine

variable {s t u : State} {P Q : State → Prop}

/-! ### Following the reference decoder -/

/-- What no step of a block changes and the emitter needs behind it. -/
structure SameSegment (s t : State) : Prop where
  flo : t.flo = s.flo
  fhi : t.fhi = s.fhi
  ctype : t.ctype = s.ctype
  err : t.err = s.err
  out : t.out = s.out
  trace : t.trace = s.trace

theorem SameSegment.refl (s : State) : SameSegment s s := ⟨rfl, rfl, rfl, rfl, rfl, rfl⟩

theorem SameSegment.trans (h : SameSegment s t) (h' : SameSegment t u) : SameSegment s u :=
  ⟨h'.flo.trans h.flo, h'.fhi.trans h.fhi, h'.ctype.trans h.ctype, h'.err.trans h.err,
    h'.out.trans h.out, h'.trace.trans h.trace⟩

/-- From `s` the machine does what the reference decoder answers: it holds the decoded bytes in a state with
`P`, or stops with the error; what is left to read is the same, and nothing has been written. -/
def Follows (s : State) (P : State → Prop) : RefResult → Prop
  | .going d rest => ∃ t, Reaches s t ∧ SameSegment s t ∧ t.rest = rest ∧ t.dbuf.wf ∧
      t.dbuf.bytes = d ∧ P t
  | .failed e rest => ∃ t, Reaches s t ∧ t.phase = .fault ∧ t.err = e.code ∧ t.rest = rest ∧
      t.out = s.out ∧ t.trace = s.trace

/-- A run to a state that follows, where the property reached there gives the property asked for. -/
theorem Follows.of_reaches {r : RefResult} (h : Reaches s t) (hs : SameSegment s t)
    (hPQ : ∀ u, Reaches t u → P u → Q u) (hf : Follows t P r) : Follows s Q r := by
  cases r with
  | going d rest =>
    obtain ⟨u, hu, hsu, hrest, hwf, hd, hP⟩ := hf
    exact ⟨u, h.trans hu, hs.trans hsu, hrest, hwf, hd, hPQ u hu hP⟩
  | failed e rest =>
    obtain ⟨u, hu, hp, herr, hrest, hout, htrace⟩ := hf
    exact ⟨u, h.trans hu, hp, herr, hrest, hout.trans hs.out, htrace.trans hs.trace⟩

/-- One row at the front. -/
theorem Follows.of_row {r : RefResult} (h : StepTo s t) (hs : SameSegment s t) (hf : Follows t P r) :
    Follows s P r :=
  .of_reaches h.reaches hs (fun _ _ hP => hP) hf

/-- A row that raises over the item at the cursor. -/
theorem StepTo.follows_failed {e : ErrKind} (h : StepTo s (s.raise e)) :
    Follows s P (.failed e s.rest) :=
  ⟨_, h.reaches, rfl, rfl, rfl, rfl, rfl⟩

/-- The end of the stream inside a block. -/
theorem follows_truncated (he : s.phase.eosError = some .truncatedBlock) (hr : s.rest = [])
    (hf : s.phase = .lLit → s.full = false) : Follows s P (.failed .truncatedBlock []) :=
  hr ▸ (StepTo.truncated he (State.item_of_rest_nil hr) hf).follows_failed

/-! ### The loops of one sequence -/

theorem follows_literals (k : Nat) {rest : List Byte} (hp : s.phase = if k = 0 then .lOff0 else .lLit)
    (hk : s.litlen = k) (hwf : s.dbuf.wf) (hr : s.rest = rest) :
    Follows s (fun t => t.phase = .lOff0 ∧ t.token = s.token)
      (refLiterals s.cfg.decCap k rest s.dbuf.bytes) := by
  induction k generalizing s rest with
  | zero => exact ⟨s, .refl s, .refl s, hr, hwf, rfl, hp, rfl⟩
  | succ k ih =>
    replace hp : s.phase = .lLit := hp
    cases hf : s.full with
    | true =>
      have hfull : refLiterals s.cfg.decCap (k + 1) rest s.dbuf.bytes =
          .failed .capacityFault rest := by
        cases rest <;> simp [refLiterals, refFull_bytes, hf]
      rw [hfull, ← hr]
      exact (StepTo.full (.inl hp) hf).follows_failed
    | false =>
      cases rest with
      | nil =>
        rw [refLiterals, refFull_bytes, hf]
        exact follows_truncated (by rw [hp]; rfl) hr fun _ => hf
      | cons b more =>
        have hrow := StepTo.literal hp hf (State.item_of_rest_cons hr) (by omega)
        rw [hk, Nat.add_sub_cancel] at hrow
        have hnext := ih
          (s := { s with
            ipos := s.ipos + 1, dbuf := s.dbuf.append b, litlen := k,
            phase := if k = 0 then .lOff0 else .lLit })
          rfl rfl (Memory.append_wf hwf b) (State.rest_of_taken hr rfl rfl)
        rw [Memory.append_bytes] at hnext
        rw [refLiterals, refFull_bytes, hf]
        exact hnext.of_row hrow ⟨rfl, rfl, rfl, rfl, rfl, rfl⟩

theorem sameSegment_extended (s : State) (c : LengthCounter) (k v : Nat) (p : Phase) :
    SameSegment s (s.extended c k v p) := by
  cases c <;> exact ⟨rfl, rfl, rfl, rfl, rfl, rfl⟩

/-- The stream ends inside an extension. -/
theorem follows_extension_none (c : LengthCounter) {bytes : List Byte} {acc : Nat}
    (hp : s.phase = c.extPhase) (hr : s.rest = bytes) (h : refExtension bytes acc = none) :
    Follows s P (.failed .truncatedBlock []) := by
  induction bytes generalizing s acc with
  | nil =>
    refine follows_truncated ?_ hr ?_ <;> rw [hp] <;> cases c
    · rfl
    · rfl
    · simp [LengthCounter.extPhase]
    · simp [LengthCounter.extPhase]
  | cons e more ih =>
    have hrow := StepTo.extension c hp (State.item_of_rest_cons hr)
    rw [refExtension] at h
    split_ifs at h hrow
    refine (ih (State.extended_phase ..) ?_ h).of_row hrow (sameSegment_extended ..)
    exact State.rest_of_taken hr (State.extended_inp ..) (State.extended_ipos ..)

/-- The run over a length extension that ends. -/
theorem reaches_extended (c : LengthCounter) {bytes rest : List Byte} {v : Nat}
    (hp : s.phase = c.extPhase) (hr : s.rest = bytes)
    (h : refExtension bytes (s.count c) = some (v, rest)) :
    ∃ k, Reaches s (s.extended c k v c.copyPhase) ∧ (s.extended c k v c.copyPhase).rest = rest := by
  obtain ⟨pre, rfl, -⟩ := refExtension_suffix h
  refine ⟨pre.length, ⟨pre.length, run_extension c hp hr h⟩, ?_⟩
  rw [State.rest_add (State.extended_inp ..) (State.extended_ipos ..), hr, List.drop_left]

theorem refExtension_le {bytes rest : List Byte} {acc v : Nat}
    (h : refExtension bytes acc = some (v, rest)) : acc ≤ v := by
  induction bytes generalizing acc with
  | nil => cases h
  | cons e more ih =>
    rw [refExtension] at h
    split_ifs at h
    · exact (Nat.le_add_right acc 255).trans (ih h)
    · cases h
      exact Nat.le_add_right acc _

theorem follows_tokenLiterals {x : Byte} {more : List Byte} (hp : s.phase = .lToken) (hwf : s.dbuf.wf)
    (hr : s.rest = x :: more) :
    Follows s (fun t => t.phase = .lOff0 ∧ t.token = x)
      (refTokenLiterals s.cfg.decCap x more s.dbuf.bytes) := by
  have hrow := StepTo.token hp (State.item_of_rest_cons hr)
  have hsame : ∀ p, SameSegment s { s with
      ipos := s.ipos + 1, token := x, litlen := x.toNat / 16, phase := p } :=
    fun _ => ⟨rfl, rfl, rfl, rfl, rfl, rfl⟩
  rw [refTokenLiterals]
  split_ifs with h15
  · have hx : x.toNat / 16 = 15 := (highNibble_eq_extEsc_iff x).mp h15
    rw [hx, if_pos rfl] at hrow
    rw [hx] at hsame
    have hr' := State.rest_of_taken (t := { s with
      ipos := s.ipos + 1, token := x, litlen := 15, phase := .lLitext }) hr rfl rfl
    refine .of_row hrow (hsame _) ?_
    cases hext : refExtension more 15 with
    | none => exact follows_extension_none .literal rfl hr' hext
    | some pair =>
      obtain ⟨v, rest⟩ := pair
      obtain ⟨k, hreach, hrest⟩ := reaches_extended .literal rfl hr' hext
      have hv : v ≠ 0 := by
        have := refExtension_le hext
        omega
      refine .of_reaches hreach (sameSegment_extended ..) (fun _ _ h => h) ?_
      exact follows_literals v (if_neg hv).symm rfl hwf hrest
  · have hx : x.toNat / 16 ≠ 15 := mt (highNibble_eq_extEsc_iff x).mpr h15
    rw [if_neg hx] at hrow
    refine .of_row hrow (hsame _) ?_
    rw [highNibble_toNat]
    refine follows_literals (x.toNat / 16) ?_ rfl hwf (State.rest_of_taken hr rfl rfl)
    by_cases h0 : x.toNat / 16 = 0
    · rw [if_pos h0, h0]
      rfl
    · rw [if_neg h0]
      exact if_pos (Nat.pos_of_ne_zero h0)

/-- A full buffer inside a match. -/
theorem follows_copy_failed (k : Nat) {e : ErrKind} {rest rest' : List Byte}
    (hp : s.phase = if k = 0 then .lToken else .lMatch) (hk : s.mlen = k) (hwf : s.dbuf.wf)
    (h1 : 1 ≤ s.offs.toNat) (hn : s.offs.toNat ≤ s.n) (hr : s.rest = rest)
    (h : refCopy s.cfg.decCap s.offs.toNat rest k s.dbuf.bytes = .failed e rest') :
    Follows s P (.failed e rest') := by
  induction k generalizing s with
  | zero => cases h
  | succ k ih =>
    replace hp : s.phase = .lMatch := hp
    rw [refCopy, refFull_bytes] at h
    split_ifs at h with hf
    · cases h
      exact hr ▸ (StepTo.full (.inr hp) hf).follows_failed
    · obtain ⟨b, hread, hb⟩ := State.exists_backReference hwf h1 hn
      rw [Memory.read_eq_bytes hwf] at hread
      rw [Memory.bytes_length, show s.dbuf.size = s.n from rfl, hread, Option.toList_some,
        ← Memory.append_bytes] at h
      have hrow := StepTo.copy hp (by simpa using hf) (by omega) hb
      rw [hk, Nat.add_sub_cancel] at hrow
      have hnext := ih
        (s := { s with
          dbuf := s.dbuf.append b, mlen := k, phase := if k = 0 then .lToken else .lMatch })
        rfl rfl (Memory.append_wf hwf b) h1 (hn.trans (by simp [State.n])) hr h
      exact hnext.of_row hrow ⟨rfl, rfl, rfl, rfl, rfl, rfl⟩

theorem follows_copy {rest : List Byte} (hp : s.phase = .lMatch) (hm : 1 ≤ s.mlen) (hwf : s.dbuf.wf)
    (h1 : 1 ≤ s.offs.toNat) (hn : s.offs.toNat ≤ s.n) (hr : s.rest = rest) :
    Follows s (fun t => t.phase = .lToken)
      (refCopy s.cfg.decCap s.offs.toNat rest s.mlen s.dbuf.bytes) := by
  have hp' : s.phase = if s.mlen = 0 then .lToken else .lMatch := by rw [hp, if_neg (by omega)]
  cases h : refCopy s.cfg.decCap s.offs.toNat rest s.mlen s.dbuf.bytes with
  | going d rest' =>
    obtain ⟨buf, hrun, hbuf, hd, rfl⟩ := run_copy rest s.mlen hp' rfl hwf h1 hn h
    exact ⟨_, ⟨_, hrun⟩, ⟨rfl, rfl, rfl, rfl, rfl, rfl⟩, hr, hbuf, hd, rfl⟩
  | failed e rest' => exact follows_copy_failed s.mlen hp' rfl hwf h1 hn hr h

/-! ### One sequence and the block -/

/-- From the second byte of the offset on. -/
theorem follows_matchBody {hi : Byte} {rest : List Byte} (hp : s.phase = .lOff1) (hwf : s.dbuf.wf)
    (hr : s.rest = hi :: rest) :
    Follows s (fun t => t.phase = .lToken)
      (refMatch s.cfg.decCap (lowNibble s.token) s.dbuf.bytes (s.olo :: hi :: rest)) := by
  have hitem := State.item_of_rest_cons hr
  have hsame : ∀ m p, SameSegment s { s with
      ipos := s.ipos + 1, offs := u16 s.olo hi, mlen := m, phase := p } :=
    fun _ _ => ⟨rfl, rfl, rfl, rfl, rfl, rfl⟩
  rw [refMatch, Memory.bytes_length, show s.dbuf.size = s.n from rfl]
  by_cases hbad : (u16 s.olo hi).toNat = 0 ∨ s.n < (u16 s.olo hi).toNat
  · rw [if_pos hbad]
    exact ⟨_, (StepTo.corrupt hp hitem hbad).reaches, rfl, rfl, State.rest_of_taken hr rfl rfl, rfl, rfl⟩
  have h1 : 1 ≤ (u16 s.olo hi).toNat := by omega
  have hn : (u16 s.olo hi).toNat ≤ s.n := by omega
  have hrow := StepTo.offset hp hitem h1 hn
  rw [if_neg hbad]
  split_ifs with h15
  · have hm : s.token.toNat % 16 = 15 := (lowNibble_eq_extEsc_iff s.token).mp h15
    rw [hm, if_pos rfl] at hrow
    have hr' := State.rest_of_taken (t := { s with
      ipos := s.ipos + 1, offs := u16 s.olo hi, mlen := 19, phase := .lMext }) hr rfl rfl
    refine .of_row hrow (hsame _ _) ?_
    cases hext : refExtension rest 19 with
    | none => exact follows_extension_none .matching rfl hr' hext
    | some pair =>
      obtain ⟨v, more⟩ := pair
      obtain ⟨k, hreach, hrest⟩ := reaches_extended .matching rfl hr' hext
      have hv : 19 ≤ v := refExtension_le hext
      refine .of_reaches hreach (sameSegment_extended ..) (fun _ _ h => h) ?_
      exact follows_copy rfl (le_trans (by decide) hv) hwf h1 hn hrest
  · have hm : s.token.toNat % 16 ≠ 15 := mt (lowNibble_eq_extEsc_iff s.token).mpr h15
    rw [if_neg hm] at hrow
    refine .of_row hrow (hsame _ _) ?_
    rw [lowNibble_toNat]
    exact follows_copy rfl (le_trans (by decide) (Nat.le_add_right 4 _)) hwf h1 hn
      (State.rest_of_taken hr rfl rfl)

/-- A whole match takes at least the two bytes of its offset. -/
theorem follows_match {lo : Byte} {more : List Byte} (hp : s.phase = .lOff0) (hwf : s.dbuf.wf)
    (hr : s.rest = lo :: more) :
    Follows s (fun t => t.phase = .lToken ∧ t.rest.length < s.rest.length)
      (refMatch s.cfg.decCap (lowNibble s.token) s.dbuf.bytes (lo :: more)) := by
  have hrow := StepTo.offsetLo hp (State.item_of_rest_cons hr)
  have hr' := State.rest_of_taken (t := { s with ipos := s.ipos + 1, olo := lo, phase := .lOff1 })
    hr rfl rfl
  refine .of_reaches (P := fun t => t.phase = .lToken) hrow.reaches ⟨rfl, rfl, rfl, rfl, rfl, rfl⟩
    (fun u hu hphase => ⟨hphase, ?_⟩) ?_
  · have hle := hu.rest_length_le
    rw [hr'] at hle
    rw [hr, List.length_cons]
    omega
  · cases more with
    | nil => exact follows_truncated rfl hr' (by simp)
    | cons hi rest => exact follows_matchBody rfl hwf hr'

theorem follows_block (fuel : Nat) {rest : List Byte} (hp : s.phase = .lToken) (hwf : s.dbuf.wf)
    (hr : s.rest = rest) (hfuel : rest.length < fuel) :
    Follows s (fun t => t.phase = .eHdr) (refBlock s.cfg.decCap fuel rest s.dbuf.bytes) := by
  induction fuel generalizing s rest with
  | zero => exact absurd hfuel (Nat.not_lt_zero _)
  | succ fuel ih =>
    cases rest with
    | nil => exact follows_truncated (by rw [hp]; rfl) hr (by simp [hp])
    | cons x more =>
      have htoken := follows_tokenLiterals hp hwf hr
      rw [refBlock]
      cases hlit : refTokenLiterals s.cfg.decCap x more s.dbuf.bytes with
      | failed e rest' =>
        rw [hlit] at htoken
        exact htoken
      | going d rest' =>
        rw [hlit] at htoken
        obtain ⟨t, hst, hsame, hrest, hwft, rfl, hpt, rfl⟩ := htoken
        obtain ⟨hinp, hcfg⟩ := hst.inp_cfg_eq
        cases rest' with
        | nil =>
          have hrow := StepTo.blockEnd hpt (State.item_of_rest_nil hrest)
          exact ⟨_, hst.trans hrow.reaches, hsame.trans ⟨rfl, rfl, rfl, rfl, rfl, rfl⟩, hrest, hwft, rfl,
            rfl⟩
        | cons lo rest' =>
          have hmatch := follows_match hpt hwft hrest
          rw [hcfg] at hmatch
          dsimp only
          cases hres : refMatch s.cfg.decCap (lowNibble t.token) t.dbuf.bytes (lo :: rest') with
          | failed e rest'' =>
            rw [hres] at hmatch
            exact Follows.of_reaches hst hsame (fun _ _ h => h) hmatch
          | going d rest'' =>
            rw [hres] at hmatch
            obtain ⟨u, htu, hsame', rfl, hwfu, rfl, hpu, hless⟩ := hmatch
            have hle := hst.rest_length_le
            rw [hr, List.length_cons] at hle
            have hnext := ih hpu hwfu rfl (by rw [List.length_cons] at hfuel; omega)
            rw [htu.inp_cfg_eq.2, hcfg] at hnext
            exact hnext.of_reaches (hst.trans htu) (hsame.trans hsame') fun _ _ h => h

/-- A whole block, with DBUF empty as SEGC leaves it. -/
theorem follows_decode {block : List Byte} (hp : s.phase = .lToken) (hd : s.dbuf = ⟨[]⟩)
    (hr : s.rest = block) :
    Follows s (fun t => t.phase = .eHdr) (refDecode s.cfg.decCap block) := by
  have hblock := follows_block (block.length + 1) hp (hd ▸ Memory.empty_wf) hr (Nat.lt_succ_self _)
  rwa [hd] at hblock

end Sys2Proof.Machine
end

section
/-! The whole machine against the reference function (43_control_and_arithmetic.md R230, R231): the emission
of a decoded block, the payload of a normal segment, the record loop, and the obligations O47 and O53. -/

namespace Sys2Proof.Machine

variable {s t : State}

/-! ### Emission of a decoded block -/

/-- From `s` the segment is completed: `bytes` are written, its record is kept, and the next header is
expected. -/
def Completes (s : State) (bytes : List Byte) (r : TraceRecord) : Prop :=
  ∃ t, Reaches s t ∧ t.phase = .pFirst0 ∧ t.out = s.out ++ bytes ∧ t.trace = s.trace ++ [r] ∧
    t.err = s.err ∧ t.ipos = s.ipos

theorem Memory.bytes_drop_of_read {m : Memory} (hwf : m.wf) {a : Nat} {b : Byte}
    (hb : m.read a = some b) : m.bytes.drop a = b :: m.bytes.drop (a + 1) := by
  rw [Memory.read_eq_bytes hwf] at hb
  rw [List.drop_eq_getElem?_toList_append, hb]
  rfl

/-- EMITD over the bytes from EIDX on; `k` bounds their number. -/
theorem completes_data (k : Nat) (hp : s.phase = .eData) (hwf : s.dbuf.wf) (hlt : s.eidx < s.n)
    (hk : s.n ≤ s.eidx + k) : Completes s (s.dbuf.bytes.drop s.eidx) s.compressedRecord := by
  induction k generalizing s with
  | zero => exact absurd hlt (not_lt.mpr hk)
  | succ k ih =>
    obtain ⟨b, hb⟩ := Memory.read_isSome hwf hlt
    rw [Memory.bytes_drop_of_read hwf hb]
    by_cases hlast : s.eidx + 1 = s.n
    · have hnil : s.dbuf.bytes.drop (s.eidx + 1) = [] := by
        rw [List.drop_eq_nil_iff, Memory.bytes_length]
        exact hlast.ge
      rw [hnil]
      exact ⟨_, (StepTo.dataLast hp hb hlast).reaches, rfl, rfl, rfl, rfl, rfl⟩
    · have hrow := StepTo.data hp hb hlast
      obtain ⟨t, ht, hphase, hout, hrest⟩ := ih
        (s := { s with out := s.out ++ [b], eidx := s.eidx + 1, phase := .eData }) rfl hwf
        (show s.eidx + 1 < s.n by omega) (show s.n ≤ s.eidx + 1 + k by omega)
      exact ⟨t, hrow.reaches_trans ht, hphase, by simpa using hout, hrest⟩

/-- EMITH, and EMITD if there are bytes. -/
theorem completes_block (hp : s.phase = .eHdr) (hwf : s.dbuf.wf) :
    Completes s
      ([s.flo, s.fhi, lo8 (recomputedLast s.first s.n), hi8 (recomputedLast s.first s.n)] ++
        s.dbuf.bytes) s.compressedRecord := by
  by_cases hn : s.n = 0
  · have hnil : s.dbuf.bytes = [] := List.eq_nil_of_length_eq_zero ((Memory.bytes_length _).trans hn)
    rw [hnil, List.append_nil]
    exact ⟨_, (StepTo.emptyHeader hp hn).reaches, rfl, rfl, rfl, rfl, rfl⟩
  · have hrow := StepTo.header hp hn
    obtain ⟨t, ht, hphase, hout, hrest⟩ := completes_data s.n (s := { s with
        out := s.out ++
          [s.flo, s.fhi, lo8 (recomputedLast s.first s.n), hi8 (recomputedLast s.first s.n)],
        eidx := 0, phase := .eData })
      rfl hwf (Nat.pos_of_ne_zero hn) (Nat.zero_add s.n).ge
    exact ⟨t, hrow.reaches_trans ht, hphase, by simpa using hout, hrest⟩

/-- A block that the reference decoder decodes, from its first byte to the next header. -/
theorem reaches_of_refDecode {block data rest : List Byte} (hp : s.phase = .lToken)
    (hd : s.dbuf = ⟨[]⟩) (hr : s.rest = block)
    (h : refDecode s.cfg.decCap block = .going data rest) :
    ∃ t, Reaches s t ∧ t.phase = .pFirst0 ∧ t.rest = rest ∧ t.err = s.err ∧
      t.out = s.out ++ ([s.flo, s.fhi, lo8 (recomputedLast s.first data.length),
        hi8 (recomputedLast s.first data.length)] ++ data) ∧
      t.trace = s.trace ++ [.compressed s.first (recomputedLast s.first data.length) s.ctype
        data.length] := by
  have hfollows := follows_decode hp hd hr
  rw [h] at hfollows
  obtain ⟨u, hu, hsame, hrest, hwf, rfl, hpu⟩ := hfollows
  obtain ⟨t, ht, hphase, hout, htrace, herr, hpos⟩ := completes_block hpu hwf
  have hfirst : u.first = s.first := by rw [State.first, State.first, hsame.flo, hsame.fhi]
  have hn : u.n = u.dbuf.bytes.length := (Memory.bytes_length _).symm
  refine ⟨t, hu.trans ht, hphase, ?_, herr.trans hsame.err, ?_, ?_⟩
  · rw [State.rest_of_stayed ht.inp_cfg_eq.1 hpos, hrest]
  · rw [hout, hsame.out, hsame.flo, hsame.fhi, hfirst, hn]
  · rw [htrace, hsame.trace, State.compressedRecord, hfirst, hn, hsame.ctype]

theorem recomputedLast_eq_ofNat {first : Half} (n : Nat) (h : 1 ≤ first.toNat) :
    recomputedLast first n = BitVec.ofNat 16 (first.toNat + n - 1) := by
  apply BitVec.eq_of_toNat_eq
  rw [recomputedLast_toNat n h, BitVec.toNat_ofNat]

/-- Settles O53: the run over the block and its emission, and the recomputed `last` does not wrap in the
range. -/
theorem decodedBlockIsReframed : Obligations.DecodedBlockIsReframed := by
  intro s data hp hd hcursor hdecode hlen hfirst hfit
  obtain ⟨t, ht, hphase, hrest, -, hout, -⟩ := reaches_of_refDecode hp hd rfl hdecode
  obtain ⟨k, hk⟩ := ht
  refine ⟨k, t, hk, hphase, ?_, ?_⟩
  · have hle := Reaches.cursor_le ⟨k, hk⟩ hcursor
    have hge := List.drop_eq_nil_iff.mp hrest
    rw [Reaches.inp_cfg_eq ⟨k, hk⟩ |>.1] at hle hge
    exact le_antisymm hle hge
  · rw [hout, recomputedLast_eq_ofNat _ hfirst, encode, List.append_assoc]
    simp [State.first]

/-! ### The payload of a normal segment -/

/-- All `k + 1` bytes are there. -/
theorem reaches_payload (k : Nat) {bytes : List Byte} (hp : s.phase = .pCopy)
    (hrem : s.rem.toNat = k + 1) (hr : s.rest = bytes) (hlen : k + 1 ≤ bytes.length) :
    ∃ t, Reaches s t ∧ t.phase = .pFirst0 ∧ t.rest = bytes.drop (k + 1) ∧ t.err = s.err ∧
      t.out = s.out ++ bytes.take (k + 1) ∧ t.trace = s.trace ++ [.normal s.first s.last] := by
  induction k generalizing s bytes with
  | zero =>
    obtain ⟨b, more, rfl⟩ := List.exists_cons_of_length_pos hlen
    have hrow := StepTo.payloadLast hp (State.item_of_rest_cons hr) hrem
    exact ⟨_, hrow.reaches, rfl, State.rest_of_taken hr rfl rfl, rfl, by simp, rfl⟩
  | succ k ih =>
    obtain ⟨b, more, rfl⟩ := List.exists_cons_of_length_pos (Nat.lt_of_lt_of_le (by omega) hlen)
    have hrow := StepTo.payload hp (State.item_of_rest_cons hr) (by omega)
    obtain ⟨t, ht, hphase, hrest, herr, hout, htrace⟩ := ih
      (s := { s with ipos := s.ipos + 1, out := s.out ++ [b], rem := s.rem - 1, phase := .pCopy })
      rfl (show (s.rem - 1).toNat = k + 1 by bv_omega) (State.rest_of_taken hr rfl rfl)
      (by simpa using hlen)
    exact ⟨t, hrow.reaches_trans ht, hphase, by simpa using hrest, herr, by simpa using hout, htrace⟩

/-- The stream ends inside the payload. -/
theorem reaches_truncatedPayload {bytes : List Byte} (hp : s.phase = .pCopy)
    (hlen : bytes.length < s.rem.toNat) (hr : s.rest = bytes) :
    ∃ t, Reaches s t ∧ t.phase = .fault ∧ t.err = ErrKind.truncatedSegment.code ∧ t.rest = [] ∧
      t.out = s.out ++ bytes ∧ t.trace = s.trace := by
  induction bytes generalizing s with
  | nil =>
    have hrow := StepTo.truncated (s := s) (e := .truncatedSegment) (by rw [hp]; rfl)
      (State.item_of_rest_nil hr) (by simp [hp])
    exact ⟨_, hrow.reaches, rfl, rfl, hr, by simp, rfl⟩
  | cons b more ih =>
    rw [List.length_cons] at hlen
    have hrow := StepTo.payload hp (State.item_of_rest_cons hr) (by omega)
    obtain ⟨t, ht, hphase, herr, hrest, hout, htrace⟩ := ih
      (s := { s with ipos := s.ipos + 1, out := s.out ++ [b], rem := s.rem - 1, phase := .pCopy })
      rfl (show more.length < (s.rem - 1).toNat by bv_omega) (State.rest_of_taken hr rfl rfl)
    exact ⟨t, hrow.reaches_trans ht, hphase, herr, hrest, by simpa using hout, htrace⟩

end Sys2Proof.Machine
end

section
/-! The record loop of the reference function (43_control_and_arithmetic.md R230), followed by the machine,
and the obligation O47. -/

namespace Sys2Proof.Machine

variable {s t : State}

/-! ### Stops -/

/-- The run from `s` stops with the result `r`. -/
def State.stopsAt (s : State) (r : RunResult) : Prop :=
  ∃ t, Reaches s t ∧ (t.phase = .done ∨ t.phase = .fault) ∧ t.matchesResult r

theorem State.stopsAt_of_reaches {r : RunResult} (h : Reaches s t) (ht : t.stopsAt r) : s.stopsAt r := by
  obtain ⟨u, hu, hrest⟩ := ht
  exact ⟨u, h.trans hu, hrest⟩

/-- The cursor is what has been read of the input. -/
theorem State.ipos_eq_sub (hc : s.ipos ≤ s.inp.length) : s.ipos = s.inp.length - s.rest.length := by
  rw [State.rest, List.length_drop]
  omega

/-- A fault stop with `rest` left to read. -/
theorem stopsAt_of_fault {e : ErrKind} {rest : List Byte} (h : Reaches s t)
    (hc : s.ipos ≤ s.inp.length) (hp : t.phase = .fault) (herr : t.err = e.code)
    (hr : t.rest = rest) : s.stopsAt (refStop s.inp.length t.out (some e) rest t.trace) := by
  refine ⟨t, h, .inr hp, rfl, State.status_of_fault hp, herr, ?_, rfl⟩
  rw [State.ipos_eq_sub (h.cursor_le hc), hr, h.inp_cfg_eq.1]
  rfl

/-- The stream ends inside an element. -/
theorem stopsAt_truncated {e : ErrKind} (he : s.phase.eosError = some e) (hl : s.phase ≠ .lLit)
    (hr : s.rest = []) (hc : s.ipos ≤ s.inp.length) :
    s.stopsAt (refStop s.inp.length s.out (some e) [] s.trace) :=
  stopsAt_of_fault (t := s.raise e)
    (StepTo.truncated he (State.item_of_rest_nil hr) fun h => absurd h hl).reaches hc rfl rfl hr

/-- The clean stop. -/
theorem stopsAt_done (hp : s.phase = .pFirst0) (herr : s.err = 0) (hr : s.rest = [])
    (hc : s.ipos ≤ s.inp.length) : s.stopsAt (refStop s.inp.length s.out none [] s.trace) := by
  refine ⟨_, (StepTo.cleanStop hp (State.item_of_rest_nil hr)).reaches, .inl rfl, rfl, rfl, herr, ?_, rfl⟩
  show s.ipos = s.inp.length - 0
  rw [State.ipos_eq_sub hc, hr]
  rfl

/-! ### The record loop -/

/-- What the loop does from a header position with `rest` to read, at most `fuel` records. -/
def RecordsFollow (fuel : Nat) : Prop :=
  ∀ (s : State) (rest : List Byte), s.phase = .pFirst0 → s.err = 0 → s.ipos ≤ s.inp.length →
    s.rest = rest → rest.length < fuel →
      s.stopsAt (refRecords s.cfg.decCap s.inp.length fuel rest s.out s.trace)

section Record

variable {fuel : Nat} {rest : List Byte}

/-- The loop goes on from a header position that is reached. -/
theorem stopsAt_of_reaches_record {out : List Byte} {trace : List TraceRecord}
    (ih : RecordsFollow fuel) (h : Reaches s t) (hc : s.ipos ≤ s.inp.length) (hp : t.phase = .pFirst0)
    (herr : t.err = 0) (hr : t.rest = rest) (hfuel : rest.length < fuel) (hout : t.out = out)
    (htrace : t.trace = trace) :
    s.stopsAt (refRecords s.cfg.decCap s.inp.length fuel rest out trace) := by
  have hnext := ih t rest hp herr (h.cursor_le hc) hr hfuel
  obtain ⟨hinp, hcfg⟩ := h.inp_cfg_eq
  rw [hinp, hcfg, hout, htrace] at hnext
  exact State.stopsAt_of_reaches h hnext

/-- The payload of a normal segment, and the loop behind it. -/
theorem stopsAt_payload {count : Nat} (ih : RecordsFollow fuel) (hp : s.phase = .pCopy)
    (herr : s.err = 0) (hc : s.ipos ≤ s.inp.length) (hr : s.rest = rest)
    (hrem : s.rem.toNat = count + 1) (hfuel : rest.length < fuel) :
    s.stopsAt (
      if count + 1 ≤ rest.length then
        refRecords s.cfg.decCap s.inp.length fuel (rest.drop (count + 1))
          (s.out ++ rest.take (count + 1)) (s.trace ++ [.normal s.first s.last])
      else refStop s.inp.length (s.out ++ rest.take (count + 1)) (some .truncatedSegment) []
        s.trace) := by
  split_ifs with hlen
  · obtain ⟨t, ht, hphase, hrest, herr', hout, htrace⟩ := reaches_payload count hp hrem hr hlen
    refine stopsAt_of_reaches_record ih ht hc hphase (herr'.trans herr) hrest ?_ hout htrace
    rw [List.length_drop]
    omega
  · rw [not_le] at hlen
    obtain ⟨t, ht, hphase, herr', hrest, hout, htrace⟩ :=
      reaches_truncatedPayload hp (hrem ▸ hlen) hr
    rw [List.take_of_length_le hlen.le, ← hout, ← htrace]
    exact stopsAt_of_fault ht hc hphase herr' hrest

/-- A compressed segment from its compression-type byte on, whose block is not decoded. -/
theorem stopsAt_compressed_failed {ctype : Byte} {e : ErrKind} {rest' : List Byte}
    (hp : s.phase = .pCtype) (hc : s.ipos ≤ s.inp.length) (hr : s.rest = ctype :: rest)
    (hres : refDecode s.cfg.decCap rest = .failed e rest') :
    s.stopsAt (refStop s.inp.length s.out (some e) rest' s.trace) := by
  have hrow := StepTo.ctype hp (State.item_of_rest_cons hr)
  have hfollows := follows_decode (s := { s with
    ipos := s.ipos + 1, ctype := ctype, dbuf := ⟨[]⟩, phase := .lToken })
    rfl rfl (State.rest_of_taken hr rfl rfl)
  rw [hres] at hfollows
  obtain ⟨t, ht, hphase, herr, hrest, hout, htrace⟩ := hfollows
  have hstop := stopsAt_of_fault (hrow.reaches_trans ht) hc hphase herr hrest
  rwa [hout, htrace] at hstop

/-- A compressed segment from its compression-type byte on, and the loop behind it. -/
theorem stopsAt_compressed {ctype : Byte} {d rest' : List Byte} (ih : RecordsFollow fuel)
    (hp : s.phase = .pCtype) (herr : s.err = 0) (hc : s.ipos ≤ s.inp.length)
    (hr : s.rest = ctype :: rest) (hfuel : rest.length < fuel)
    (hres : refDecode s.cfg.decCap rest = .going d rest') :
    s.stopsAt (refRecords s.cfg.decCap s.inp.length fuel rest'
      (s.out ++ [s.flo, s.fhi, lo8 (recomputedLast s.first d.length),
        hi8 (recomputedLast s.first d.length)] ++ d)
      (s.trace ++ [.compressed s.first (recomputedLast s.first d.length) ctype d.length])) := by
  have hrow := StepTo.ctype hp (State.item_of_rest_cons hr)
  have hr' := State.rest_of_taken (t := { s with
    ipos := s.ipos + 1, ctype := ctype, dbuf := ⟨[]⟩, phase := .lToken }) hr rfl rfl
  obtain ⟨t, ht, hphase, hrest, herr', hout, htrace⟩ := reaches_of_refDecode rfl rfl hr' hres
  refine stopsAt_of_reaches_record ih (hrow.reaches_trans ht) hc hphase (herr'.trans herr) hrest ?_
    (hout.trans (List.append_assoc ..).symm) htrace
  have hle := ht.rest_length_le
  rw [hrest, hr'] at hle
  omega

/-- The four bytes of the header of a normal segment. -/
theorem reaches_normalHeader {a b c d : Byte} (hp : s.phase = .pFirst0)
    (hr : s.rest = a :: b :: c :: d :: rest) (hm : ¬ (a = 0xFF ∧ b = 0xFF))
    (hle : (u16 a b).toNat ≤ (u16 c d).toNat) :
    Reaches s { s with
      ipos := s.ipos + 4, flo := a, fhi := b, llo := c, lhi := d, out := s.out ++ [a, b, c, d],
      rem := payloadLength (u16 a b) (u16 c d), phase := .pCopy } := by
  have h3 : s.rest[3]? = some d := by rw [hr]; rfl
  exact ⟨4, (run_add 3 1 (run_realHeader hp hr hm)).trans <|
    StepTo.run_one (.normalHeader rfl (State.item_add h3 rfl rfl) hle)⟩

/-- A header that is no dummy, and the loop behind its segment. -/
theorem stopsAt_segment {a b c d : Byte} (ih : RecordsFollow fuel) (hp : s.phase = .pFirst0)
    (herr : s.err = 0) (hc : s.ipos ≤ s.inp.length) (hr : s.rest = a :: b :: c :: d :: rest)
    (hm : ¬ (a = 0xFF ∧ b = 0xFF)) (hfuel : rest.length < fuel) :
    s.stopsAt (refRecords s.cfg.decCap s.inp.length (fuel + 1) (a :: b :: c :: d :: rest) s.out
      s.trace) := by
  rw [refRecords, if_neg hm]
  dsimp only
  by_cases hle : (u16 a b).toNat ≤ (u16 c d).toNat
  · rw [if_pos hle]
    have hreach := reaches_normalHeader hp hr hm hle
    refine State.stopsAt_of_reaches hreach ?_
    exact stopsAt_payload ih rfl herr (hreach.cursor_le hc)
      (State.rest_after (s := s) (pre := [a, b, c, d]) hr rfl rfl) (payloadLength_toNat hle) hfuel
  · rw [if_neg hle]
    have hrun := run_compressedHeader hp hr hm (not_le.mp hle)
    have hreach : Reaches s _ := ⟨4, hrun⟩
    have hc' := hreach.cursor_le hc
    refine State.stopsAt_of_reaches hreach ?_
    have hr' : State.rest { s with
        ipos := s.ipos + 4, flo := a, fhi := b, llo := c, lhi := d, phase := .pCtype } = rest :=
      State.rest_after (s := s) (pre := [a, b, c, d]) hr rfl rfl
    cases rest with
    | nil => exact stopsAt_truncated (s := _) rfl (by simp) hr' hc'
    | cons ctype block =>
      rw [List.length_cons] at hfuel
      dsimp only
      cases hres : refDecode s.cfg.decCap block with
      | failed e rest' => exact stopsAt_compressed_failed rfl hc' hr' hres
      | going d' rest' => exact stopsAt_compressed ih rfl herr hc' hr' (by omega) hres

/-- A dummy header, and the loop behind it. -/
theorem stopsAt_dummy (ih : RecordsFollow fuel) (hp : s.phase = .pFirst0) (herr : s.err = 0)
    (hc : s.ipos ≤ s.inp.length) (hr : s.rest = 0xFF :: 0xFF :: rest) (hfuel : rest.length < fuel) :
    s.stopsAt (refRecords s.cfg.decCap s.inp.length (fuel + 1) (0xFF :: 0xFF :: rest) s.out
      s.trace) := by
  have h1 : s.rest[1]? = some 0xFF := by rw [hr]; rfl
  have hreach : Reaches s { s with ipos := s.ipos + 2, flo := 0xFF, fhi := 0xFF, phase := .pFirst0 } :=
    ⟨2, StepTo.run_succ (.firstLo hp (State.item_of_rest_cons hr)) <|
      StepTo.run_one (.dummy rfl (State.item_add h1 rfl rfl) rfl)⟩
  show s.stopsAt (refRecords s.cfg.decCap s.inp.length fuel rest s.out s.trace)
  exact stopsAt_of_reaches_record ih hreach hc rfl herr
    (State.rest_after (s := s) (pre := [0xFF, 0xFF]) hr rfl rfl) hfuel rfl rfl

/-- The stream ends inside an element `k` bytes after the header position. -/
theorem stopsAt_shortHeader {k : Nat} {e : ErrKind} (h : Reaches s t) (hc : s.ipos ≤ s.inp.length)
    (he : t.phase.eosError = some e) (hl : t.phase ≠ .lLit) (hpos : t.ipos = s.ipos + k)
    (hr : s.rest.length ≤ k) (hout : t.out = s.out) (htrace : t.trace = s.trace) :
    s.stopsAt (refStop s.inp.length s.out (some e) [] s.trace) := by
  have hrest : t.rest = [] := by
    rw [State.rest_add h.inp_cfg_eq.1 hpos]
    exact List.drop_eq_nil_of_le hr
  have hstop := stopsAt_truncated he hl hrest (h.cursor_le hc)
  rw [h.inp_cfg_eq.1, hout, htrace] at hstop
  exact State.stopsAt_of_reaches h hstop

end Record

/-- A header position at which the loop finds nothing, less than a header, or a record. -/
theorem recordsFollow (fuel : Nat) : RecordsFollow fuel := by
  induction fuel with
  | zero => exact fun _ _ _ _ _ _ h => absurd h (Nat.not_lt_zero _)
  | succ fuel ih =>
    intro s rest hp herr hc hr hfuel
    rcases rest with _ | ⟨a, rest⟩
    · exact stopsAt_done hp herr hr hc
    have hlo := StepTo.firstLo hp (State.item_of_rest_cons hr)
    rcases rest with _ | ⟨b, rest⟩
    · exact stopsAt_shortHeader hlo.reaches hc rfl (by simp) rfl (by rw [hr]; rfl) rfl rfl
    have hless : rest.length < fuel := by
      simp only [List.length_cons] at hfuel
      omega
    by_cases hm : a = 0xFF ∧ b = 0xFF
    · obtain ⟨rfl, rfl⟩ := hm
      exact stopsAt_dummy ih hp herr hc hr hless
    rcases rest with _ | ⟨c, _ | ⟨d, rest⟩⟩
    · have h1 : s.rest[1]? = some b := by rw [hr]; rfl
      have hreach : Reaches s { s with ipos := s.ipos + 2, flo := a, fhi := b, phase := .pLast0 } :=
        ⟨2, StepTo.run_succ hlo <| StepTo.run_one (.firstHi rfl (State.item_add h1 rfl rfl) hm)⟩
      show s.stopsAt (if a = 0xFF ∧ b = 0xFF then _ else _)
      rw [if_neg hm]
      exact stopsAt_shortHeader hreach hc rfl (by simp) rfl (by rw [hr]; rfl) rfl rfl
    · have hreach : Reaches s _ := ⟨3, run_realHeader hp hr hm⟩
      show s.stopsAt (if a = 0xFF ∧ b = 0xFF then _ else _)
      rw [if_neg hm]
      exact stopsAt_shortHeader hreach hc rfl (by simp) rfl (by rw [hr]; rfl) rfl rfl
    · refine stopsAt_segment ih hp herr hc hr hm ?_
      simp only [List.length_cons] at hless
      omega

/-! ### From reset -/

/-- The file header, and the record loop behind it. -/
theorem stopsAt_refRun {input : List Byte} (hp : s.phase = .pMagic0) (herr : s.err = 0)
    (hpos : s.ipos = 0) (hout : s.out = []) (htrace : s.trace = []) (hinp : s.inp = input) :
    s.stopsAt (refRun s.cfg.decCap input) := by
  have hc : s.ipos ≤ s.inp.length := hpos ▸ Nat.zero_le _
  have hr : s.rest = input := by rw [State.rest, hpos, hinp, List.drop_zero]
  rcases input with _ | ⟨m0, rest⟩
  · have hstop := stopsAt_truncated (e := .badMagic) (by rw [hp]; rfl) (by simp [hp]) hr hc
    rwa [hinp, hout, htrace] at hstop
  have h0 := StepTo.magic0 hp (State.item_of_rest_cons hr)
  rcases rest with _ | ⟨m1, rest⟩
  · have hstop := stopsAt_shortHeader (e := .badMagic) h0.reaches hc rfl (by simp) rfl
      (by rw [hr]; rfl) rfl rfl
    rwa [hinp, hout, htrace] at hstop
  have h1 : s.rest[1]? = some m1 := by rw [hr]; rfl
  show s.stopsAt (if m0 ≠ 0xFF ∨ m1 ≠ 0xFF then _ else _)
  split_ifs with hbad
  · have hreach : Reaches s ({ s with ipos := s.ipos + 2, m0 := m0, phase := .pMagic1 }.raise
        .badMagic) :=
      ⟨2, StepTo.run_succ h0 <| StepTo.run_one (.badMagic rfl (State.item_add h1 rfl rfl) hbad)⟩
    have hstop := stopsAt_of_fault (e := .badMagic) hreach hc rfl rfl
      (State.rest_after (s := s) (pre := [m0, m1]) hr rfl rfl)
    rw [hinp] at hstop
    exact hout ▸ htrace ▸ hstop
  · obtain ⟨rfl, rfl⟩ : m0 = 0xFF ∧ m1 = 0xFF := by simpa using hbad
    have hreach : Reaches s { s with
        ipos := s.ipos + 2, m0 := 0xFF, out := s.out ++ [0xFF, 0xFF], phase := .pFirst0 } :=
      ⟨2, StepTo.run_succ h0 <| StepTo.run_one (.fileHeader rfl (State.item_add h1 rfl rfl) rfl)⟩
    rw [← hinp]
    exact stopsAt_of_reaches_record (recordsFollow _) hreach hc rfl herr
      (State.rest_after (s := s) (pre := [0xFF, 0xFF]) hr rfl rfl) (Nat.lt_succ_self _)
      (by rw [hout]; rfl) htrace

/-- Settles O47: the run follows the reference function from the file header on. -/
theorem stepMachineAgreesWithReference : Obligations.StepMachineAgreesWithReference := by
  intro cap input
  obtain ⟨t, ⟨k, hk⟩, hstop, hmatch⟩ := stopsAt_refRun (s := State.load ⟨cap, .eosAtOffset⟩ input)
    rfl rfl rfl rfl rfl rfl
  exact ⟨k, t, hk, hstop, hmatch⟩

end Sys2Proof.Machine
end

section
/-! Whole streams by the reference function, which the machine follows (O47): plain streams and a compressed
segment of literals alone, and the obligations O50 and O54. -/

namespace Sys2Proof.Machine

/-! ### Streams written as elements (30_encoding.md R105) -/

theorem assemble_cons (i : Instr) (is : List Instr) : assemble (i :: is) = encode i ++ assemble is :=
  List.flatMap_cons

theorem assemble_append (is js : List Instr) : assemble (is ++ js) = assemble is ++ assemble js :=
  List.flatMap_append

/-- Elements of one byte each. -/
theorem assemble_map {f : Byte → Instr} (hf : ∀ b, encode (f b) = [b]) (bytes : List Byte) :
    assemble (bytes.map f) = bytes := by
  induction bytes with
  | nil => rfl
  | cons b more ih => rw [List.map_cons, assemble_cons, hf, ih, List.singleton_append]

theorem assemble_normalSegment (first last : Half) (payload : List Byte) :
    assemble (normalSegment first last payload) =
      [lo8 first, hi8 first, lo8 last, hi8 last] ++ payload := by
  rw [normalSegment, assemble_cons, assemble_map fun _ => rfl]
  rfl

theorem assemble_finalElements (data : List Byte) :
    assemble (finalElements data) =
      tokenByte (lengthCode data.length) 0 :: (extensionBytes data.length ++ data) := by
  rw [finalElements, assemble_cons, assemble_append, assemble_map fun b => (lextOf_spec b).2.2,
    assemble_map fun _ => rfl]
  rfl

/-! ### From the reference function to the machine -/

/-- Where the reference function stops cleanly, so does the run, with the same OUT. -/
theorem run_of_refRun_done (cfg : Config) {input out : List Byte}
    (hs : (refRun cfg.decCap input).status = .done) (ho : (refRun cfg.decCap input).out = out) :
    ∃ k t, core.run k (State.load cfg input) = .next t ∧ t.phase = .done ∧ t.out = out := by
  obtain ⟨cap, ⟨⟩⟩ := cfg
  obtain ⟨k, t, hrun, -, hout, hstatus, -⟩ := stepMachineAgreesWithReference cap input
  exact ⟨k, t, hrun, State.status_done_iff.mp (hstatus.trans hs), hout.trans ho⟩

/-- Behind the file header the reference function is its record loop. -/
theorem refRun_fileHeader (cap : Option Nat) (rest : List Byte) :
    refRun cap (0xFF :: 0xFF :: rest) =
      refRecords cap (rest.length + 2) (rest.length + 1) rest [0xFF, 0xFF] [] :=
  rfl

theorem refRecords_nil (cap : Option Nat) (total : Nat) {fuel : Nat} (hfuel : 0 < fuel)
    (out : List Byte) (trace : List TraceRecord) :
    refRecords cap total fuel [] out trace = refStop total out none [] trace := by
  obtain ⟨fuel, rfl⟩ := Nat.exists_eq_add_one.mpr hfuel
  rw [refRecords]

/-! ### Plain streams (R137) -/

section PlainStreams

variable (cap : Option Nat) (total fuel : Nat) (out : List Byte) (trace : List TraceRecord)

/-- A whole normal segment in the record loop. -/
theorem refRecords_normalSegment {first last : Half} {payload : List Byte} (hfirst : first ≠ 0xFFFF)
    (hle : first.toNat ≤ last.toNat) (hlen : payload.length = last.toNat - first.toNat + 1)
    (more : List Byte) :
    refRecords cap total (fuel + 1) (assemble (normalSegment first last payload) ++ more) out trace =
      refRecords cap total fuel more (out ++ assemble (normalSegment first last payload))
        (trace ++ [.normal first last]) := by
  rw [assemble_normalSegment]
  simp only [List.cons_append, List.nil_append]
  rw [refRecords, if_neg (not_magicPair_of_first hfirst)]
  simp only [u16_lo8_hi8, if_pos hle, ← hlen]
  rw [if_pos (by simp), List.take_left, List.drop_left, List.append_assoc]
  rfl

/-- The record loop over plain records keeps all but the dummy headers. -/
theorem refRecords_plain {records : List PlainRecord}
    (hwf : records.all PlainRecord.wellFormed = true)
    (hfuel : (assemble (records.flatMap PlainRecord.elements)).length < fuel) :
    (refRecords cap total fuel (assemble (records.flatMap PlainRecord.elements)) out trace).status =
        .done ∧
      (refRecords cap total fuel (assemble (records.flatMap PlainRecord.elements)) out trace).out =
        out ++ assemble (records.flatMap PlainRecord.kept) := by
  induction records generalizing fuel out trace with
  | nil =>
    rw [List.flatMap_nil, List.flatMap_nil, assemble, List.flatMap_nil, refRecords_nil _ _ hfuel]
    exact ⟨rfl, (List.append_nil out).symm⟩
  | cons record records ih =>
    obtain ⟨fuel, rfl⟩ := Nat.exists_eq_add_one.mpr (Nat.zero_lt_of_lt hfuel)
    rw [List.all_cons, Bool.and_eq_true] at hwf
    obtain ⟨hrec, hwf⟩ := hwf
    rw [List.flatMap_cons, assemble_append] at hfuel ⊢
    rw [List.length_append] at hfuel
    rw [List.flatMap_cons, assemble_append]
    cases record with
    | dummy =>
      have htwo : (assemble PlainRecord.dummy.elements).length = 2 := rfl
      exact ih fuel out trace hwf (by omega)
    | normal first last payload =>
      rw [PlainRecord.wellFormed, Bool.and_eq_true, decide_eq_true_iff] at hrec
      obtain ⟨hsegn, hlen⟩ := hrec
      obtain ⟨hfirst, hle⟩ := (wellFormed_segn_iff first last).mp hsegn
      rw [PlainRecord.elements, assemble_normalSegment, List.length_append, List.length_cons] at hfuel
      rw [PlainRecord.elements, PlainRecord.kept, ← List.append_assoc,
        refRecords_normalSegment cap total fuel out trace hfirst hle hlen]
      exact ih fuel _ _ hwf (by omega)

end PlainStreams

/-- Settles O50: the reference function copies the records, and the machine follows it. -/
theorem plainStreamsAreCopiedWithoutDummies : Obligations.PlainStreamsAreCopiedWithoutDummies := by
  intro cfg records hwf
  obtain ⟨hs, ho⟩ := refRecords_plain cfg.decCap _ _ [0xFF, 0xFF] [] hwf (Nat.lt_succ_self _)
  exact run_of_refRun_done cfg hs ho

/-! ### A compressed segment of literals alone (R204) -/

theorem refLiterals_unbounded (data rest d : List Byte) :
    refLiterals none data.length (data ++ rest) d = .going (d ++ data) rest := by
  induction data generalizing d with
  | nil => simp [refLiterals]
  | cons b more ih => simpa [refLiterals, refFull] using ih (d ++ [b])

theorem lengthCode_toNat (v : Nat) : (lengthCode v).toNat = min v 15 := by
  rw [lengthCode, BitVec.toNat_ofNat]
  omega

/-- The literals of a FINAL, whatever their number. -/
theorem refTokenLiterals_final (data : List Byte) :
    refTokenLiterals none (tokenByte (lengthCode data.length) 0)
      (extensionBytes data.length ++ data) [] = .going data [] := by
  have hall := refLiterals_unbounded data [] []
  rw [List.append_nil, List.nil_append] at hall
  have hcode := lengthCode_toNat data.length
  rw [refTokenLiterals, highNibble_tokenByte]
  split_ifs with h15
  · have hlong : 15 ≤ data.length := by
      rw [h15] at hcode
      exact Nat.le_of_not_lt fun h => by simp at hcode; omega
    rw [refExtension_extensionBytes hlong, Nat.add_sub_cancel' hlong]
    exact hall
  · have hshort : data.length < 15 := by
      refine Nat.lt_of_not_le fun h => h15 (BitVec.eq_of_toNat_eq ?_)
      rw [hcode]
      exact Nat.min_eq_right h
    rw [hcode, Nat.min_eq_left hshort.le, extensionBytes, if_pos hshort]
    exact hall

/-- A block of literals alone decodes to them. -/
theorem refDecode_finalElements (data : List Byte) :
    refDecode none (assemble (finalElements data)) = .going data [] := by
  rw [assemble_finalElements, refDecode, List.length_cons, refBlock, refTokenLiterals_final]

/-- A whole compressed segment in the record loop. -/
theorem refRecords_compressedSegment (cap : Option Nat) (total fuel : Nat) (out : List Byte)
    (trace : List TraceRecord) {first last : Half} (ctype : Byte) {block data rest : List Byte}
    (hfirst : first ≠ 0xFFFF) (hlt : last.toNat < first.toNat)
    (hblock : refDecode cap block = .going data rest) :
    refRecords cap total (fuel + 1) (encode (.segc first last ctype) ++ block) out trace =
      refRecords cap total fuel rest
        (out ++ encode (.segn first (recomputedLast first data.length)) ++ data)
        (trace ++ [.compressed first (recomputedLast first data.length) ctype data.length]) := by
  simp only [encode, List.cons_append, List.nil_append]
  rw [refRecords, if_neg (not_magicPair_of_first hfirst)]
  simp only [u16_lo8_hi8, if_neg (not_le.mpr hlt), hblock]

/-- Settles O54: the reference function decodes the block to `data`, and the machine follows it. -/
theorem literalBlockRoundTrips : Obligations.LiteralBlockRoundTrips := by
  intro first last ctype data hlt hfirst _ _
  have hone : 1 ≤ first.toNat := Nat.one_le_of_lt hlt
  have hrun := refRun_fileHeader none (encode (.segc first last ctype) ++ assemble (finalElements data))
  rw [refRecords_compressedSegment _ _ _ _ _ ctype hfirst hlt (refDecode_finalElements data),
    refRecords_nil _ _ (by simp [encode]), recomputedLast_eq_ofNat _ hone] at hrun
  refine run_of_refRun_done Config.default (congrArg RunResult.status hrun) ?_
  refine (congrArg RunResult.out hrun).trans ?_
  rw [assemble_cons, assemble_normalSegment, List.append_assoc]
  rfl

end Sys2Proof.Machine
end
